-- ==== Sys2Proof/Word.lean ====
section
/-! DEFINITION. The word types of the block: a byte, the two unit widths, and a table of 256 entries. -/

namespace Sys2Proof

/-- A byte: an unsigned 8-bit value (spec 00_scope R7). -/
abbrev Byte := BitVec 8

/-- The two widths of the block (00_scope R2). A `Width` names a unit: `w32` the 32-bit unit, `w64` the 64-bit unit. -/
inductive Width where
  | w32
  | w64
  deriving DecidableEq, Repr

/-- The number of bits of everything that belongs to a unit (00_scope R2). -/
abbrev Width.bits : Width → Nat
  | .w32 => 32
  | .w64 => 64

/-- A lookup table: exactly 256 entries of `w` bits (10_state R20, R25; 20_memory R45). -/
abbrev Table (w : Nat) := Vector (BitVec w) 256

end Sys2Proof
end

