-- ==== Sys2Proof/Syntax.lean ====
section
/-! DEFINITION. The commands of the block, one constructor per row of spec/opcode_table.json, and the reasons a header
word is illegal. A command holds the fields of its header word; what its operand ports carry is an input of the machine
(30_encoding R60 to R62, R66). -/

namespace Sys2Proof

/-- The 28 commands (30_encoding R66). `ctx` is the field CTX, `imm` the field IMM8, `p` and `s` the operand-present flags
P and S of NEW. -/
inductive Instr where
  /-- `NEW.32` (R102). -/
  | new32 (ctx : BitVec 8) (p s : Bool)
  /-- `RESET.32` (R103). -/
  | reset32 (ctx : BitVec 8)
  /-- `UPDB.32` (R104). -/
  | updb32 (ctx imm : BitVec 8)
  /-- `UPD.32` (R105). -/
  | upd32 (ctx : BitVec 8)
  /-- `UPDS.32` (R106). -/
  | upds32 (ctx : BitVec 8)
  /-- `VALUE.32` (R107). -/
  | value32 (ctx : BitVec 8)
  /-- `FINAL.32` (R142). -/
  | final32 (ctx : BitVec 8)
  /-- `DIGEST.32` (R143). -/
  | digest32 (ctx : BitVec 8)
  /-- `COMP1.32` (R131). -/
  | comp1_32
  /-- `COMP2.32` (R132). -/
  | comp2_32
  /-- `COMP3.32` (R133). -/
  | comp3_32
  /-- `TBUILD.32` (R85). -/
  | tbuild32
  /-- `TGET.32` (R94). -/
  | tget32
  /-- `CFLUSH.32` (R96). -/
  | cflush32
  /-- `NEW.64` (R117). -/
  | new64 (ctx : BitVec 8) (p s : Bool)
  /-- `RESET.64` (R118). -/
  | reset64 (ctx : BitVec 8)
  /-- `UPDB.64` (R119). -/
  | updb64 (ctx imm : BitVec 8)
  /-- `UPD.64` (R120). -/
  | upd64 (ctx : BitVec 8)
  /-- `UPDS.64` (R121). -/
  | upds64 (ctx : BitVec 8)
  /-- `VALUE.64` (R122). -/
  | value64 (ctx : BitVec 8)
  /-- `FINAL.64` (R144). -/
  | final64 (ctx : BitVec 8)
  /-- `DIGEST.64` (R145). -/
  | digest64 (ctx : BitVec 8)
  /-- `COMP1.64` (R134). -/
  | comp1_64
  /-- `COMP2.64` (R135). -/
  | comp2_64
  /-- `COMP3.64` (R136). -/
  | comp3_64
  /-- `TBUILD.64` (R86). -/
  | tbuild64
  /-- `TGET.64` (R95). -/
  | tget64
  /-- `CFLUSH.64` (R97). -/
  | cflush64
  deriving DecidableEq, Repr

/-- The causes of the fault `IllegalCommand` (30_encoding R64, R65). -/
inductive IllegalInfo where
  /-- a reserved bit, or a field the command does not have, is not zero -/
  | reservedBits
  /-- the field OP is 0xC to 0xF -/
  | reservedOp
  /-- a reserved combination of the operand-present flags -/
  | reservedFlags
  /-- the context number is not below the number of contexts of the unit -/
  | ctxRange
  deriving DecidableEq, Repr

/-- The unit a command belongs to (the field W of its header, 30_encoding R61). -/
def Instr.unit : Instr → Width
  | .new32 .. | .reset32 _ | .updb32 .. | .upd32 _ | .upds32 _ | .value32 _ | .final32 _ | .digest32 _ => .w32
  | .comp1_32 | .comp2_32 | .comp3_32 | .tbuild32 | .tget32 | .cflush32 => .w32
  | .new64 .. | .reset64 _ | .updb64 .. | .upd64 _ | .upds64 _ | .value64 _ | .final64 _ | .digest64 _ => .w64
  | .comp1_64 | .comp2_64 | .comp3_64 | .tbuild64 | .tget64 | .cflush64 => .w64

/-- The context a command names, if it names one (30_encoding R66). -/
def Instr.context : Instr → Option (BitVec 8)
  | .new32 c _ _ | .reset32 c | .updb32 c _ | .upd32 c | .upds32 c | .value32 c | .final32 c | .digest32 c => some c
  | .comp1_32 | .comp2_32 | .comp3_32 | .tbuild32 | .tget32 | .cflush32 => none
  | .new64 c _ _ | .reset64 c | .updb64 c _ | .upd64 c | .upds64 c | .value64 c | .final64 c | .digest64 c => some c
  | .comp1_64 | .comp2_64 | .comp3_64 | .tbuild64 | .tget64 | .cflush64 => none

end Sys2Proof
end

