-- ==== Sys2Proof/WellFormed.lean ====
section
/-! DEFINITION. Which commands a machine with given numbers of contexts admits: the one check a command's types do not
make already, that the context it names exists (30_encoding R65 step 4, R67). -/

namespace Sys2Proof

/-- The command is one a machine with `n32` 32-bit and `n64` 64-bit contexts admits: the context it names, if any, is below
the number of contexts of its unit (30_encoding R65 step 4: `H.CTX >= NCTX_W` is `CTX_RANGE`). -/
def Instr.wf (n32 n64 : Nat) (i : Instr) : Bool :=
  match i.context with
  | none => true
  | some c =>
    match i.unit with
    | .w32 => decide (c.toNat < n32)
    | .w64 => decide (c.toNat < n64)

end Sys2Proof
end

