-- ==== Sys2Proof/Decode.lean ====
section
/-! DEFINITION. The header word (30_encoding R61), the decoder of R65, total on all 32-bit words and rejecting by name, and
after it the encoder and the match and mask of every command (R67, opcode_table.json). -/

namespace Sys2Proof

/-! The fields of a header word (30_encoding R61). -/

/-- `RSV0`, bits 31:29. -/
def Header.rsv0 (h : BitVec 32) : BitVec 3 := h.extractLsb' 29 3
/-- `W`, bit 28: the unit select. -/
def Header.w (h : BitVec 32) : Bool := h.getLsbD 28
/-- `OP`, bits 27:24. -/
def Header.op (h : BitVec 32) : BitVec 4 := h.extractLsb' 24 4
/-- `CTX`, bits 23:16. -/
def Header.ctx (h : BitVec 32) : BitVec 8 := h.extractLsb' 16 8
/-- `IMM8`, bits 15:8. -/
def Header.imm8 (h : BitVec 32) : BitVec 8 := h.extractLsb' 8 8
/-- `RSV1`, bits 7:0. -/
def Header.rsv1 (h : BitVec 32) : BitVec 8 := h.extractLsb' 0 8

/-- The flag P of an IMM8 field: bit 8 of the header, a polynomial operand is present (30_encoding R61). -/
def Header.flagP (imm8 : BitVec 8) : Bool := imm8.getLsbD 0
/-- The flag S of an IMM8 field: bit 9 of the header, a seed operand is present (30_encoding R61). -/
def Header.flagS (imm8 : BitVec 8) : Bool := imm8.getLsbD 1
/-- The reserved flag bits `IMM8[7:2]` of NEW and COMP (30_encoding R65 step 3). -/
def Header.flagsRest (imm8 : BitVec 8) : BitVec 6 := imm8.extractLsb' 2 6

/-- The operations the field OP can name (30_encoding R66). -/
inductive Operation where
  | new | reset | updb | upd | upds | value | final | digest | comp | tbuild | tget | cflush
  deriving DecidableEq, Repr

/-- The code of an operation (30_encoding R66); 0xC to 0xF are reserved (R65 step 2). -/
def operationOf (op : BitVec 4) : Option Operation :=
  match op.toNat with
  | 0x0 => some .new
  | 0x1 => some .reset
  | 0x2 => some .updb
  | 0x3 => some .upd
  | 0x4 => some .upds
  | 0x5 => some .value
  | 0x6 => some .final
  | 0x7 => some .digest
  | 0x8 => some .comp
  | 0x9 => some .tbuild
  | 0xA => some .tget
  | 0xB => some .cflush
  | _ => none

/-- What R65 step 3 refuses: reserved flags of NEW and COMP, COMP with P and without S, an immediate on a command that has
none. -/
def checkImm (o : Operation) (imm8 : BitVec 8) : Option IllegalInfo :=
  match o with
  | .new => if Header.flagsRest imm8 ≠ 0 then some .reservedFlags else none
  | .comp =>
    if Header.flagsRest imm8 ≠ 0 then some .reservedFlags
    else if Header.flagP imm8 && !Header.flagS imm8 then some .reservedFlags
    else none
  | .updb => none
  | .reset | .upd | .upds | .value | .final | .digest | .tbuild | .tget | .cflush =>
    if imm8 ≠ 0 then some .reservedBits else none

/-- What the first line of R65 step 4 refuses: a context number on a command that names no context. -/
def checkCtx (o : Operation) (ctx : BitVec 8) : Option IllegalInfo :=
  match o with
  | .comp | .tbuild | .tget | .cflush => if ctx ≠ 0 then some .reservedBits else none
  | .new | .reset | .updb | .upd | .upds | .value | .final | .digest => none

/-- R65 step 5: the row of R66 selected by W, OP and, for COMP, the flags. -/
def selectRow (w : Bool) (o : Operation) (ctx imm8 : BitVec 8) : Instr :=
  match o, w with
  | .new, false => .new32 ctx (Header.flagP imm8) (Header.flagS imm8)
  | .new, true => .new64 ctx (Header.flagP imm8) (Header.flagS imm8)
  | .reset, false => .reset32 ctx
  | .reset, true => .reset64 ctx
  | .updb, false => .updb32 ctx imm8
  | .updb, true => .updb64 ctx imm8
  | .upd, false => .upd32 ctx
  | .upd, true => .upd64 ctx
  | .upds, false => .upds32 ctx
  | .upds, true => .upds64 ctx
  | .value, false => .value32 ctx
  | .value, true => .value64 ctx
  | .final, false => .final32 ctx
  | .final, true => .final64 ctx
  | .digest, false => .digest32 ctx
  | .digest, true => .digest64 ctx
  | .comp, false =>
    if Header.flagP imm8 then .comp3_32 else if Header.flagS imm8 then .comp2_32 else .comp1_32
  | .comp, true =>
    if Header.flagP imm8 then .comp3_64 else if Header.flagS imm8 then .comp2_64 else .comp1_64
  | .tbuild, false => .tbuild32
  | .tbuild, true => .tbuild64
  | .tget, false => .tget32
  | .tget, true => .tget64
  | .cflush, false => .cflush32
  | .cflush, true => .cflush64

/-- The part of R65 that no parameter of the hardware enters: the row of the opcode table a header word selects, or the
reason it selects none. -/
def decodeRow (h : BitVec 32) : Except IllegalInfo Instr :=
  if Header.rsv0 h ≠ 0 ∨ Header.rsv1 h ≠ 0 then .error .reservedBits
  else
    match operationOf (Header.op h) with
    | none => .error .reservedOp
    | some o =>
      match checkImm o (Header.imm8 h) with
      | some e => .error e
      | none =>
        match checkCtx o (Header.ctx h) with
        | some e => .error e
        | none => .ok (selectRow (Header.w h) o (Header.ctx h) (Header.imm8 h))

/-- The whole decision of R65 for a block with `n32` and `n64` contexts: the row, then the context range (step 4, second
line). -/
def decode (n32 n64 : Nat) (h : BitVec 32) : Except IllegalInfo Instr :=
  match decodeRow h with
  | .error e => .error e
  | .ok i => if i.wf n32 n64 then .ok i else .error .ctxRange

/-- What the decoder reads from a table row's word `w` (bit 0 the least significant bit of the header word; a command is one
header word, 30_encoding R60, R69). A word of more than 32 bits is no header. The number of contexts does not enter: the
table has no row for it (R67). -/
def decodeTableWord (_nbits w : Nat) : Option Instr :=
  if 2 ^ 32 ≤ w then none
  else
    match decodeRow (BitVec.ofNat 32 w) with
    | .ok i => some i
    | .error _ => none

/-! The encoder (30_encoding R61, R66). -/

/-- A header word from its fields, the reserved ones zero (30_encoding R61). -/
def mkHeader (w : Bool) (op : BitVec 4) (ctx imm8 : BitVec 8) : BitVec 32 :=
  0#3 ++ BitVec.ofBool w ++ op ++ ctx ++ imm8 ++ 0#8

/-- The IMM8 field of NEW and COMP from its flags (30_encoding R61). -/
def mkFlags (p s : Bool) : BitVec 8 := 0#6 ++ BitVec.ofBool s ++ BitVec.ofBool p

/-- The header word of a command (30_encoding R61, R66). -/
def encode : Instr → BitVec 32
  | .new32 c p s => mkHeader false 0x0#4 c (mkFlags p s)
  | .reset32 c => mkHeader false 0x1#4 c 0#8
  | .updb32 c b => mkHeader false 0x2#4 c b
  | .upd32 c => mkHeader false 0x3#4 c 0#8
  | .upds32 c => mkHeader false 0x4#4 c 0#8
  | .value32 c => mkHeader false 0x5#4 c 0#8
  | .final32 c => mkHeader false 0x6#4 c 0#8
  | .digest32 c => mkHeader false 0x7#4 c 0#8
  | .comp1_32 => mkHeader false 0x8#4 0#8 (mkFlags false false)
  | .comp2_32 => mkHeader false 0x8#4 0#8 (mkFlags false true)
  | .comp3_32 => mkHeader false 0x8#4 0#8 (mkFlags true true)
  | .tbuild32 => mkHeader false 0x9#4 0#8 0#8
  | .tget32 => mkHeader false 0xA#4 0#8 0#8
  | .cflush32 => mkHeader false 0xB#4 0#8 0#8
  | .new64 c p s => mkHeader true 0x0#4 c (mkFlags p s)
  | .reset64 c => mkHeader true 0x1#4 c 0#8
  | .updb64 c b => mkHeader true 0x2#4 c b
  | .upd64 c => mkHeader true 0x3#4 c 0#8
  | .upds64 c => mkHeader true 0x4#4 c 0#8
  | .value64 c => mkHeader true 0x5#4 c 0#8
  | .final64 c => mkHeader true 0x6#4 c 0#8
  | .digest64 c => mkHeader true 0x7#4 c 0#8
  | .comp1_64 => mkHeader true 0x8#4 0#8 (mkFlags false false)
  | .comp2_64 => mkHeader true 0x8#4 0#8 (mkFlags false true)
  | .comp3_64 => mkHeader true 0x8#4 0#8 (mkFlags true true)
  | .tbuild64 => mkHeader true 0x9#4 0#8 0#8
  | .tget64 => mkHeader true 0xA#4 0#8 0#8
  | .cflush64 => mkHeader true 0xB#4 0#8 0#8

/-! The match and mask of every row (30_encoding R67, opcode_table.json), written from the table and not from the
decoder. -/

/-- The `match` of a command's row (30_encoding R67). -/
def Instr.matchWord : Instr → BitVec 32
  | .new32 .. => 0x00000000#32
  | .reset32 _ => 0x01000000#32
  | .updb32 .. => 0x02000000#32
  | .upd32 _ => 0x03000000#32
  | .upds32 _ => 0x04000000#32
  | .value32 _ => 0x05000000#32
  | .final32 _ => 0x06000000#32
  | .digest32 _ => 0x07000000#32
  | .comp1_32 => 0x08000000#32
  | .comp2_32 => 0x08000200#32
  | .comp3_32 => 0x08000300#32
  | .tbuild32 => 0x09000000#32
  | .tget32 => 0x0A000000#32
  | .cflush32 => 0x0B000000#32
  | .new64 .. => 0x10000000#32
  | .reset64 _ => 0x11000000#32
  | .updb64 .. => 0x12000000#32
  | .upd64 _ => 0x13000000#32
  | .upds64 _ => 0x14000000#32
  | .value64 _ => 0x15000000#32
  | .final64 _ => 0x16000000#32
  | .digest64 _ => 0x17000000#32
  | .comp1_64 => 0x18000000#32
  | .comp2_64 => 0x18000200#32
  | .comp3_64 => 0x18000300#32
  | .tbuild64 => 0x19000000#32
  | .tget64 => 0x1A000000#32
  | .cflush64 => 0x1B000000#32

/-- The `mask` of a command's row (30_encoding R67). -/
def Instr.maskWord : Instr → BitVec 32
  | .new32 .. | .new64 .. => 0xFF00FCFF#32
  | .updb32 .. | .updb64 .. => 0xFF0000FF#32
  | .reset32 _ | .upd32 _ | .upds32 _ | .value32 _ | .final32 _ | .digest32 _ => 0xFF00FFFF#32
  | .reset64 _ | .upd64 _ | .upds64 _ | .value64 _ | .final64 _ | .digest64 _ => 0xFF00FFFF#32
  | .comp1_32 | .comp2_32 | .comp3_32 | .tbuild32 | .tget32 | .cflush32 => 0xFFFFFFFF#32
  | .comp1_64 | .comp2_64 | .comp3_64 | .tbuild64 | .tget64 | .cflush64 => 0xFFFFFFFF#32

end Sys2Proof
end

