-- ==== Sys2Proof/Config.lean ====
section
/-! DEFINITION. What an implementation fixes: the hardwired constants of each unit (one record a width, so that a claim
can name them: 93 U3, U9) and the open parameters NCTX32, NCTX64, LENW with their ranges. No value is left free: the spec
leaves no result open (00_scope section 6). -/

namespace Sys2Proof

/-- The hardwired constants of a unit of width `w` (00_scope R5). -/
structure UnitConsts (w : Nat) where
  /-- `CANON_POLY_W`, the canonical polynomial, in reflected form. -/
  canonPoly : BitVec w
  /-- `DEFAULT_SEED_W`. -/
  defaultSeed : BitVec w
  /-- `XOROUT_W`, the finalization mask. -/
  xorOut : BitVec w
  deriving DecidableEq, Repr

/-- The constants of the 32-bit unit, CRC-32/ZIP (00_scope R5). UNVERIFIED literals, log 10. -/
def Config.consts32 : UnitConsts 32 where
  canonPoly := 0xEDB88320#32
  defaultSeed := 0xFFFFFFFF#32
  xorOut := 0xFFFFFFFF#32

/-- The constants of the 64-bit unit, CRC-64/ISO-3309 (00_scope R5). UNVERIFIED literals, log 10; the zero finalization
mask is the spec's resolution of a contradiction in its source (90_conflicts C2, 93 U3), log 9. -/
def Config.consts64 : UnitConsts 64 where
  canonPoly := 0xD800000000000000#64
  defaultSeed := 0x0000000000000000#64
  xorOut := 0x0000000000000000#64

/-- The constants of the unit named by a width. -/
def Config.consts : (W : Width) → UnitConsts W.bits
  | .w32 => Config.consts32
  | .w64 => Config.consts64

/-- `NENT`, the entries of a table (00_scope R5). -/
def Config.nent : Nat := 256

/-- `NSTEP`, the shift/XOR steps of one entry (00_scope R5). -/
def Config.nstep : Nat := 8

/-- The open parameters of the hardware (00_scope R6), which the model takes as arguments. -/
structure Params where
  /-- `NCTX32`, the number of 32-bit contexts. -/
  nctx32 : Nat
  /-- `NCTX64`, the number of 64-bit contexts. -/
  nctx64 : Nat
  /-- `LENW`, the width in bits of a buffer length, an offset and a length. -/
  lenw : Nat
  deriving DecidableEq, Repr

/-- The ranges of the open parameters (00_scope R6). -/
abbrev Params.Legal (p : Params) : Prop :=
  (1 ≤ p.nctx32 ∧ p.nctx32 ≤ 256) ∧ (1 ≤ p.nctx64 ∧ p.nctx64 ≤ 256) ∧ (1 ≤ p.lenw ∧ p.lenw ≤ 64)

/-- The defaults the spec suggests for the open parameters (00_scope R6). DESIGN CHOICE, log 5: `State.reset` takes them. -/
def Params.suggested : Params where
  nctx32 := 1
  nctx64 := 1
  lenw := 32

end Sys2Proof
end

