-- ==== Sys2Proof/Machine/State.lean ====
section
/-! DEFINITION. The state of the block as plain data: per unit a bank of accumulator contexts and the shared table
(10_state R20, R25), the parameter LENW, and the model's own ends of the command and response ports. -/

namespace Sys2Proof.Machine

/-- Which table a context uses: the register `TSEL`, with the private table `PT` where it holds a value, that is when
`TSEL = PRIVATE` (10_state R20). -/
inductive TableSel (w : Nat) where
  /-- `TSEL = SHARED` (0): the shared table of the unit. -/
  | shared
  /-- `TSEL = PRIVATE` (1): the context's own table `PT`. -/
  | owned (pt : Table w)
  deriving DecidableEq, Repr

/-- An accumulator: what a context holds while its `CFG` is 1 (10_state R20). There is one running value (R22). -/
structure Acc (w : Nat) where
  /-- `POLY`, the polynomial in reflected form. -/
  poly : BitVec w
  /-- `SEED`. -/
  seed : BitVec w
  /-- `CUR`, the running value. -/
  cur : BitVec w
  /-- `TSEL` and `PT`. -/
  tab : TableSel w
  deriving DecidableEq, Repr

/-- A context: `none` while `CFG = 0`, when its other fields hold no value and must not be given one (10_state R35,
93 U7; log 7), and `some` accumulator while `CFG = 1`. -/
abbrev Ctx (w : Nat) := Option (Acc w)

/-- A unit: its bank of contexts, `NCTX_W` of them (10_state R20), and its shared table. -/
structure CrcUnit (w : Nat) where
  /-- `CW[0 .. NCTX_W - 1]`. -/
  bank : List (Ctx w)
  /-- `ST_W`: `none` while `VALID = 0`, when its entries hold no value, `some` table while `VALID = 1` (10_state R25, R26). -/
  st : Option (Table w)
  deriving DecidableEq, Repr

/-- What the operand ports carry while a command is executed (30_encoding R62). `poly` and `seed` are the 64 lines of the
widest form; a command of the 32-bit unit has the low 32 of them (log 4). `buf` is `BP`, `BLEN` and `BDATA`: absent, or the
bytes in index order (00_scope R9). `off` and `len` are unsigned; a value wider than `LENW` bits is out of range of every buffer
(93 U12; log 6). -/
structure Ports where
  poly : BitVec 64
  seed : BitVec 64
  buf : Option (List Byte)
  off : Nat
  len : Nat
  deriving DecidableEq, Repr

/-- The operand ports with every line 0, so with no buffer present (DESIGN CHOICE, log 4). -/
def Ports.idle : Ports where
  poly := 0#64
  seed := 0#64
  buf := none
  off := 0
  len := 0

/-- One command transaction as a requester presents it: the header word and the operand ports (30_encoding R60). -/
structure Command where
  header : BitVec 32
  ports : Ports
  deriving DecidableEq, Repr

/-- What the outside does to the block, in order. -/
inductive Event where
  /-- A command is issued; it runs to its response (60_exceptions R161). -/
  | issue (c : Command)
  /-- Power-on reset is applied; the command in flight, if there is one, is lost (70 R170, R171). -/
  | powerOn (inFlight : Option Command)
  deriving DecidableEq, Repr

/-- The two causes of `InvalidArgument` (30_encoding R64, 60_exceptions R151). -/
inductive ArgInfo where
  | bufferAbsent
  | sliceRange
  deriving DecidableEq, Repr

/-- The three faults a command can be answered with (60_exceptions R150). They are no stops of the machine: a faulting
command is answered and the next one runs (R155, R156). -/
inductive CmdFault where
  | invalidArgument (info : ArgInfo)
  | illegalCommand (info : IllegalInfo)
  | notConfigured
  deriving DecidableEq, Repr

/-- The result fields of a response with status OK: at most one of them holds a value (30_encoding R64). -/
inductive Result where
  /-- no result field holds a value -/
  | nothing
  /-- `RES`, a value of the unit's width -/
  | value (W : Width) (v : BitVec W.bits)
  /-- `RBYTES`, the digest, byte 0 first -/
  | digest (bytes : List Byte)
  /-- `RTAB`, a table, entry 0 first -/
  | table (W : Width) (t : Table W.bits)
  deriving DecidableEq, Repr

/-- A response (30_encoding R64): OK with a result, or a fault, with which no result field holds a value. -/
inductive Response where
  | ok (r : Result)
  | fault (f : CmdFault)
  deriving DecidableEq, Repr

/-- The state of the machine. -/
structure State where
  /-- The 32-bit unit: `C32` and `ST_32`. -/
  u32 : CrcUnit 32
  /-- The 64-bit unit: `C64` and `ST_64`. -/
  u64 : CrcUnit 64
  /-- The parameter `LENW` of this machine (00_scope R6); no step changes it. -/
  lenw : Nat
  /-- The model's own: the events to come, oldest first, one total order of whole commands (20_memory R50; log 1, log 2). -/
  pending : List Event
  /-- The model's own: what the operand ports carry at the command being executed (30_encoding R62; log 4). -/
  ports : Ports
  /-- The model's own: the position in the command list, how many commands have been taken from it (10_state R33; log 1). -/
  pos : Nat
  /-- The model's own: the responses given, latest first (20_memory R47; log 3). -/
  out : List Response
  deriving DecidableEq, Repr

/-- Why the machine stops. -/
inductive Fault where
  /-- The next command reads a buffer of `2^LENW` bytes or more. No block of that `LENW` has such a buffer: "A buffer has at most
  `2^LENW - 1` bytes" (00_scope R6, R9), longer ones "cannot be expressed" (92 D3). Raised by `step` alone, never by a command's
  meaning, and only where the command would read the buffer. SAFE: no hardware can be given such a command; log 6. -/
  | unpresentable
  deriving DecidableEq, Repr

/-- Why the model has no meaning for a command. -/
inductive Refusal where
  /-- The command has no meaning yet. Raised by an arm of `exec` alone. SAFE: nothing can be proved of it. No arm raises it
  now: every command of the opcode table has its meaning. -/
  | notModelled (mnemonic : String)
  deriving DecidableEq, Repr

/-- A unit after power-on reset with `n` contexts: every `CFG` 0 and `VALID` 0 (10_state R35, 70 R170). -/
def CrcUnit.por (w n : Nat) : CrcUnit w where
  bank := List.replicate n none
  st := none

/-- The block with the parameters `p` after power-on reset: both units at the values of R35, idle, and nothing yet issued or
answered (10_state R35, 70 R170, R171). -/
def State.por (p : Params) : State where
  u32 := CrcUnit.por 32 p.nctx32
  u64 := CrcUnit.por 64 p.nctx64
  lenw := p.lenw
  pending := []
  ports := Ports.idle
  pos := 0
  out := []

/-- The machine right after reset, with the parameters the spec suggests (DESIGN CHOICE, log 5). -/
def State.reset : State := State.por Params.suggested

end Sys2Proof.Machine
end

