-- ==== Sys2Proof/Machine/Accumulate.lean ====
section
/-! DEFINITION. The accumulation step and loop at either width (42 R100, R101; 43 R115, R116). The rules of the two widths
are one formula; XOR commutes (R115). -/

namespace Sys2Proof.Machine

/-- `TabRead(T, i)` (20_memory R46): the index has 8 bits, so it is always in range. -/
def tabRead {w : Nat} (T : Table w) (i : BitVec 8) : BitVec w := T[i.toNat]'i.isLt

/-- `(cur ^ zext_W(b)) & 0xFF`, the low byte as an index (R100, R115; 00_scope R8). -/
def accIndex {w : Nat} (cur : BitVec w) (b : Byte) : BitVec 8 := (cur ^^^ b.setWidth w).setWidth 8

/-- The byte step, `acc_W(T, cur, b)` (R100, R115). -/
def acc {w : Nat} (T : Table w) (cur : BitVec w) (b : Byte) : BitVec w :=
  tabRead T (accIndex cur b) ^^^ (cur >>> 8)

/-- The loop over a byte sequence in ascending index order, `fold_W(T, cur, X)` (R101, R116; 20_memory R42). -/
def fold {w : Nat} (T : Table w) : BitVec w → List Byte → BitVec w
  | cur, [] => cur
  | cur, x :: X => fold T (acc T cur x) X

end Sys2Proof.Machine
end

