-- ==== Sys2Proof/Machine/Builder.lean ====
section
/-! DEFINITION. The table builder: the pure functions `bitstep_W` and `build_W` (40_table_builder R80, R81), and the
bit-serial engine of R82 with its working registers (10_state R29), which computes the same table one shift/XOR step at a
time. The commands use `build`; that the engine arrives at it is a statement of its own. -/

namespace Sys2Proof.Machine

/-- One shift/XOR step, `bitstep_W(P, e)` (R80). -/
def bitstep {w : Nat} (P e : BitVec w) : BitVec w :=
  if e.getLsbD 0 then (e >>> 1) ^^^ P else e >>> 1

/-- `bitstep_W(P, ·)` applied `n` times (R81). -/
def bitsteps {w : Nat} (P : BitVec w) : Nat → BitVec w → BitVec w
  | 0, e => e
  | n + 1, e => bitsteps P n (bitstep P e)

/-- `build_W(P)`: entry `i` is eight steps from `i` (R81). Total on every polynomial (R84). -/
def build {w : Nat} (P : BitVec w) : Table w :=
  Vector.ofFn fun i : Fin 256 => bitsteps P Config.nstep (BitVec.ofNat w i.val)

/-- The table builder's working registers (10_state R29) and the destination it fills (40 R82). -/
structure Builder (w : Nat) where
  /-- `TB.POLY`, the polynomial being built for. -/
  poly : BitVec w
  /-- `TB.I`, the entry index, 0 to 256. -/
  i : BitVec 9
  /-- `TB.K`, the steps made on this entry, 0 to 8. -/
  k : BitVec 4
  /-- `TB.ENTRY`, the shift register. -/
  entry : BitVec w
  /-- The entries of the destination `D` stored so far, `D[0]` first. -/
  dest : List (BitVec w)
  deriving DecidableEq, Repr

/-- A build begins: the polynomial is loaded, entry 0 is loaded, nothing is stored (R82). -/
def Builder.start {w : Nat} (P : BitVec w) : Builder w where
  poly := P
  i := 0#9
  k := 0#4
  entry := BitVec.setWidth w (0#8)
  dest := []

/-- One micro-step of the engine (R82): a shift/XOR step while `TB.K < 8`; then the entry is stored, the index advanced and
the next entry loaded; nothing once the index is 256. -/
def Builder.tick {w : Nat} (b : Builder w) : Builder w :=
  if b.i.toNat = Config.nent then b
  else if b.k.toNat < Config.nstep then
    { b with entry := bitstep b.poly b.entry, k := b.k + 1#4 }
  else
    { b with
      dest := b.dest ++ [b.entry]
      i := b.i + 1#9
      k := 0#4
      entry := BitVec.setWidth w ((b.i + 1#9).setWidth 8) }

/-- `n` micro-steps. -/
def Builder.ticks {w : Nat} : Nat → Builder w → Builder w
  | 0, b => b
  | n + 1, b => Builder.ticks n b.tick

/-- The micro-steps of a whole build: 256 entries, each 8 shift/XOR steps and one store (R82: 2048 shift/XOR steps). -/
def Builder.length : Nat := Config.nent * (Config.nstep + 1)

end Sys2Proof.Machine
end

