-- ==== Sys2Proof/Machine/Finalize.lean ====
section
/-! DEFINITION. Finalization and the big-endian serializer (45 R140, R141). -/

namespace Sys2Proof.Machine

/-- `fin_W(v) = v ^ XOROUT_W` (R140). -/
def fin {w : Nat} (K : UnitConsts w) (v : BitVec w) : BitVec w := v ^^^ K.xorOut

/-- Byte `k` of `be_W(v)`: the bits `W-1-8k` down to `W-8-8k` (R141). -/
def beByte {w : Nat} (v : BitVec w) (k : Nat) : Byte := v.extractLsb' (w - 8 - 8 * k) 8

/-- `be_W(v)`, the `W/8` bytes of a value, most significant first (R141; 20_memory R49). -/
def be {w : Nat} (v : BitVec w) : List Byte := (List.range (w / 8)).map (beByte v)

end Sys2Proof.Machine
end

