-- ==== Sys2Proof/Machine/Flags.lean ====
section
/-! DEFINITION. The block has no condition codes and no arithmetic flags (10_state R31): no operation of it can carry or
overflow. What stands here are its only status bits, `CFG` of a context and `VALID` of a shared table, the select bit
`TSEL`, and the codes `STATUS` and `INFO` of a response (30_encoding R64), which are outputs and not stored. -/

namespace Sys2Proof.Machine

/-- `CW[c].CFG` (10_state R20, R31); a context the bank does not have is not configured. -/
def CrcUnit.cfg {w : Nat} (u : CrcUnit w) (c : Nat) : Bool :=
  match u.bank[c]? with
  | some (some _) => true
  | some none => false
  | none => false

/-- `ST_W.VALID` (10_state R25, R31). -/
def CrcUnit.valid {w : Nat} (u : CrcUnit w) : Bool := u.st.isSome

/-- `CW[c].TSEL`: false is SHARED (0), true is PRIVATE (1) (10_state R20). -/
def Acc.tsel {w : Nat} (a : Acc w) : Bool :=
  match a.tab with
  | .shared => false
  | .owned _ => true

/-- The code `INFO` of a cause of `IllegalCommand` (30_encoding R64). -/
def illegalCode : IllegalInfo → BitVec 2
  | .reservedBits => 0#2
  | .reservedOp => 1#2
  | .reservedFlags => 2#2
  | .ctxRange => 3#2

/-- The code `INFO` of a cause of `InvalidArgument` (30_encoding R64). -/
def argCode : ArgInfo → BitVec 2
  | .bufferAbsent => 0#2
  | .sliceRange => 1#2

/-- The field `STATUS` of a response (30_encoding R64; 60_exceptions R150). -/
def Response.status : Response → BitVec 2
  | .ok _ => 0#2
  | .fault (.invalidArgument _) => 1#2
  | .fault (.illegalCommand _) => 2#2
  | .fault .notConfigured => 3#2

/-- The field `INFO` of a response (30_encoding R64; 60_exceptions R150). -/
def Response.info : Response → BitVec 2
  | .ok _ => 0#2
  | .fault (.invalidArgument i) => argCode i
  | .fault (.illegalCommand i) => illegalCode i
  | .fault .notConfigured => 0#2

end Sys2Proof.Machine
end

