-- ==== Sys2Proof/Machine/Operands.lean ====
section
/-! DEFINITION. Every operand form: the W-bit ports, the defaults of P and S (30_encoding R62, R63), the buffer and its
bound check (20_memory R40, R41, R44), and which buffers a block cannot be given (00_scope R6, R9). -/

namespace Sys2Proof

/-- The command is a NEW. -/
def Instr.isNew : Instr → Bool
  | .new32 .. | .new64 .. => true
  | .reset32 _ | .updb32 .. | .upd32 _ | .upds32 _ | .value32 _ | .final32 _ | .digest32 _ => false
  | .comp1_32 | .comp2_32 | .comp3_32 | .tbuild32 | .tget32 | .cflush32 => false
  | .reset64 _ | .updb64 .. | .upd64 _ | .upds64 _ | .value64 _ | .final64 _ | .digest64 _ => false
  | .comp1_64 | .comp2_64 | .comp3_64 | .tbuild64 | .tget64 | .cflush64 => false

/-- The command takes a buffer (60_exceptions R150, R151). -/
def Instr.takesBuffer : Instr → Bool
  | .upd32 _ | .upds32 _ | .comp1_32 | .comp2_32 | .comp3_32 => true
  | .upd64 _ | .upds64 _ | .comp1_64 | .comp2_64 | .comp3_64 => true
  | .new32 .. | .reset32 _ | .updb32 .. | .value32 _ | .final32 _ | .digest32 _ | .tbuild32 | .tget32 | .cflush32 => false
  | .new64 .. | .reset64 _ | .updb64 .. | .value64 _ | .final64 _ | .digest64 _ | .tbuild64 | .tget64 | .cflush64 => false

end Sys2Proof

namespace Sys2Proof.Machine

/-- The port `POLY` as the unit `W` has it: `W` bits wide (30_encoding R62; log 4). -/
def portPoly (W : Width) (s : State) : BitVec W.bits := s.ports.poly.setWidth W.bits

/-- The port `SEED` as the unit `W` has it (30_encoding R62; log 4). -/
def portSeed (W : Width) (s : State) : BitVec W.bits := s.ports.seed.setWidth W.bits

/-- The polynomial a NEW works with: the port when P = 1, the canonical one when P = 0 (30_encoding R63). -/
def operandPoly (W : Width) (p : Bool) (s : State) : BitVec W.bits :=
  if p then portPoly W s else (Config.consts W).canonPoly

/-- The seed a NEW works with: the port when S = 1, the default when S = 0 (30_encoding R63). -/
def operandSeed (W : Width) (sd : Bool) (s : State) : BitVec W.bits :=
  if sd then portSeed W s else (Config.consts W).defaultSeed

/-- `MemRead(B, i, 1)`: the byte `B[i]` of a present buffer, evaluated only inside it (20_memory R41). -/
def memRead (B : List Byte) (i : Nat) (h : i < B.length) : Byte := B[i]

/-- The request is in range exactly when `o + n <= len(B)`, the sum on natural numbers (20_memory R44). -/
def sliceInRange (B : List Byte) (o n : Nat) : Bool := decide (o + n ≤ B.length)

/-- `B[o .. o+n)`: the `n` bytes from index `o` on, in ascending index order (00_scope R9, 20_memory R42). -/
def slice (B : List Byte) (o n : Nat) : List Byte := (B.drop o).take n

/-- The buffer is no buffer of this block: it has `2^LENW` bytes or more, where 00_scope R6 and R9 admit at most `2^LENW - 1`,
and its length does not fit in the port `BLEN` (30_encoding R62; log 6). `OFF` and `LEN` need no such check: a value of more
than `LENW` bits is greater than every buffer's length and so out of range (20_memory R44, 93 U12). -/
def State.bufferTooLong (s : State) : Bool :=
  match s.ports.buf with
  | none => false
  | some B => decide (2 ^ s.lenw ≤ B.length)

end Sys2Proof.Machine
end

