-- ==== Sys2Proof/Machine/Ops.lean ====
section
/-! DEFINITION. The named operations over the state: the units and their contexts, answering a command, TAKING A FAULT as
one shared operation (60_exceptions R155), the shared table cache (41), and taking the next event from outside. -/

namespace Sys2Proof.Machine

/-- What a command's execution answers: a next state, or a stop (Host/Core.lean). -/
abbrev Answer := Host.Outcome State Fault Refusal

/-! Units. The two of them share no state (00_scope R2). -/

/-- The unit of a width. -/
def State.unit (s : State) : (W : Width) → CrcUnit W.bits
  | .w32 => s.u32
  | .w64 => s.u64

/-- The state with the unit of a width replaced. -/
def State.setUnit (s : State) : (W : Width) → CrcUnit W.bits → State
  | .w32, u => { s with u32 := u }
  | .w64, u => { s with u64 := u }

/-- The unit with what context `c` holds replaced; no other context is touched (10_state R20, 20_memory R51). -/
def CrcUnit.setCtx {w : Nat} (u : CrcUnit w) (c : BitVec 8) (a : Acc w) : CrcUnit w :=
  { u with bank := u.bank.set c.toNat (some a) }

/-! Responses and faults. -/

/-- The command completes with a response, which goes to its requester (00_scope R10 `respond`, 20_memory R47). -/
def State.respond (s : State) (r : Response) : State := { s with out := r :: s.out }

/-- TAKING A FAULT (60_exceptions R155; 00_scope R10 `raise`): no architectural state is written, nothing is saved, no mode
and no mask changes, control goes nowhere; the response carries the fault. There is no return: the next command is accepted
as after a success (R156). -/
def State.raise (s : State) (f : CmdFault) : State := s.respond (.fault f)

/-- A command on the context `c` of the unit `W`: out of the bank it is `IllegalCommand(CTX_RANGE)` (30_encoding R65 step 4;
the decoder has refused it already), on a context with `CFG = 0` it is `NotConfigured` (60_exceptions R153), both before
anything else of the command (R154); otherwise it goes on with the accumulator. -/
def withAcc (W : Width) (c : BitVec 8) (s : State) (go : Acc W.bits → Answer) : Answer :=
  match (s.unit W).bank[c.toNat]? with
  | none => .next (s.raise (.illegalCommand .ctxRange))
  | some none => .next (s.raise .notConfigured)
  | some (some a) => go a

/-- A command with a buffer: an absent one is `InvalidArgument(BUFFER_ABSENT)`, before any table is looked up
(60_exceptions R151); otherwise it goes on with the bytes. -/
def withBuffer (s : State) (go : List Byte → Answer) : Answer :=
  match s.ports.buf with
  | none => .next (s.raise (.invalidArgument .bufferAbsent))
  | some B => go B

/-- A command with a slice of a present buffer: out of range is `InvalidArgument(SLICE_RANGE)` (20_memory R44,
60_exceptions R151); otherwise it goes on with the bytes of the slice. -/
def withSlice (s : State) (B : List Byte) (go : List Byte → Answer) : Answer :=
  if sliceInRange B s.ports.off s.ports.len then go (slice B s.ports.off s.ports.len)
  else .next (s.raise (.invalidArgument .sliceRange))

/-- `CW[c].CFG` of a unit. -/
def State.cfg (s : State) (W : Width) (c : Nat) : Bool :=
  match W with
  | .w32 => s.u32.cfg c
  | .w64 => s.u64.cfg c

/-- The condition of `NotConfigured`: the command is not NEW and names a context whose `CFG` is 0 (60_exceptions R153). -/
def unconfigured (i : Instr) (s : State) : Bool :=
  match i.context with
  | none => false
  | some c => !i.isNew && !s.cfg i.unit c.toNat

/-- The command would read a buffer that is too long to be on this block's ports, no fault that comes before the buffer having
answered it: such a command "cannot be expressed" (92 D3; log 6). -/
def beyondPorts (i : Instr) (s : State) : Bool := i.takesBuffer && !unconfigured i s && s.bufferTooLong

/-! The shared table cache (41_table_cache). -/

/-- `populate_W()`: all 256 entries are built, then published with `VALID` as one action (R91). -/
def CrcUnit.populate {w : Nat} (K : UnitConsts w) (u : CrcUnit w) : CrcUnit w :=
  { u with st := some (build K.canonPoly) }

/-- `get_or_build_W(P)` (R90): the table, and the unit after a population if one was needed. -/
def getOrBuild {w : Nat} (K : UnitConsts w) (u : CrcUnit w) (P : BitVec w) : Table w × CrcUnit w :=
  if P = K.canonPoly then
    match u.st with
    | some T => (T, u)
    | none => (build K.canonPoly, u.populate K)
  else (build P, u)

/-- `tab_W(c)`, the table of a context, looked up at each use (R92), and the unit after it. -/
def tabOf {w : Nat} (K : UnitConsts w) (u : CrcUnit w) (a : Acc w) : Table w × CrcUnit w :=
  match a.tab with
  | .shared => getOrBuild K u K.canonPoly
  | .owned T => (T, u)

/-- The unit with its shared table emptied: `ST_W.VALID <- 0`, and `ST_W.T` holds no value (R96, R97). -/
def CrcUnit.flush {w : Nat} (u : CrcUnit w) : CrcUnit w := { u with st := none }

/-! What the families share. -/

/-- The bytes `X` are accumulated on context `c` (42 R104 to R106, 43 R119 to R121): `CUR` is folded over them with the
context's table. -/
def accumulate (W : Width) (c : BitVec 8) (a : Acc W.bits) (X : List Byte) (s : State) : Answer :=
  let look := tabOf (Config.consts W) (s.unit W) a
  .next ((s.setUnit W (look.2.setCtx c { a with cur := fold look.1 a.cur X })).respond (.ok .nothing))

/-- `compute_W(P, S, B)` (44 R130) with the response that carries it; no context is read or written. -/
def computeOn (W : Width) (P S : BitVec W.bits) (s : State) : Answer :=
  withBuffer s fun B =>
    let look := getOrBuild (Config.consts W) (s.unit W) P
    .next ((s.setUnit W look.2).respond (.ok (.value W (fin (Config.consts W) (fold look.1 S B)))))

/-! Events from outside. -/

/-- A command is taken from the list: its operands stand on the ports, and the position advances by one, whatever the
command turns out to be (10_state R33; 30_encoding R60). -/
def State.take (s : State) (c : Command) (rest : List Event) : State :=
  { s with pending := rest, ports := c.ports, pos := s.pos + 1 }

/-- Power-on reset of a running block (70 R170, R171): every `CFG` and both `VALID` bits to 0, everything else valueless;
the command in flight is lost and gets no response. The parameters stay, and so do the responses already given. -/
def State.powerOn (s : State) (inFlight : Option Command) (rest : List Event) : State :=
  { s with
    u32 := CrcUnit.por 32 s.u32.bank.length
    u64 := CrcUnit.por 64 s.u64.bank.length
    pending := rest
    ports := Ports.idle
    pos := s.pos + (match inFlight with | none => 0 | some _ => 1) }

/-- The decision of 30_encoding R65 for this block, which has as many contexts as its banks are long. -/
def State.decodeHeader (s : State) (h : BitVec 32) : Except IllegalInfo Instr :=
  decode s.u32.bank.length s.u64.bank.length h

end Sys2Proof.Machine
end

