-- ==== Sys2Proof/Machine/Accumulator.lean ====
section
/-! DEFINITION. The accumulator commands of both widths: NEW, RESET, UPDB, UPD, UPDS, VALUE (42 R102 to R107, 43 R117 to
R122). -/

namespace Sys2Proof.Machine

/-- NEW at either width (R102, R117): the table is the shared one exactly when the polynomial is the canonical one, in which
case the cache is filled if it is empty; otherwise the context owns a table built for it. `CUR` starts at the seed. A
context number out of the bank is `IllegalCommand(CTX_RANGE)` (30_encoding R65 step 4). -/
def newAcc (W : Width) (c : BitVec 8) (p sd : Bool) (s : State) : Answer :=
  if c.toNat < (s.unit W).bank.length then
    let K := Config.consts W
    let P := operandPoly W p s
    let S := operandSeed W sd s
    let u := s.unit W
    let u' :=
      if P = K.canonPoly then (getOrBuild K u P).2.setCtx c { poly := P, seed := S, cur := S, tab := .shared }
      else u.setCtx c { poly := P, seed := S, cur := S, tab := .owned (build P) }
    .next ((s.setUnit W u').respond (.ok .nothing))
  else .next (s.raise (.illegalCommand .ctxRange))

/-- RESET at either width (R103, R118): the running value is the seed again, never the constant 0 (90_conflicts C1). -/
def resetAcc (W : Width) (c : BitVec 8) (s : State) : Answer :=
  withAcc W c s fun a =>
    .next ((s.setUnit W ((s.unit W).setCtx c { a with cur := a.seed })).respond (.ok .nothing))

/-- UPDB at either width (R104, R119). -/
def updateByte (W : Width) (c : BitVec 8) (b : Byte) (s : State) : Answer :=
  withAcc W c s fun a => accumulate W c a [b] s

/-- UPD at either width (R105, R120). -/
def updateBuffer (W : Width) (c : BitVec 8) (s : State) : Answer :=
  withAcc W c s fun a => withBuffer s fun B => accumulate W c a B s

/-- UPDS at either width (R106, R121). -/
def updateSlice (W : Width) (c : BitVec 8) (s : State) : Answer :=
  withAcc W c s fun a => withBuffer s fun B => withSlice s B fun X => accumulate W c a X s

/-- VALUE at either width (R107, R122): the raw running value; its mask is the identity (10_state R23). -/
def readValue (W : Width) (c : BitVec 8) (s : State) : Answer :=
  withAcc W c s fun a => .next (s.respond (.ok (.value W a.cur)))

/-! The 32-bit unit. -/

/-- `NEW.32` (R102). -/
def execNew32 (c : BitVec 8) (p sd : Bool) (s : State) : Answer := newAcc .w32 c p sd s

/-- `RESET.32` (R103). -/
def execReset32 (c : BitVec 8) (s : State) : Answer := resetAcc .w32 c s

/-- `UPDB.32` (R104). -/
def execUpdb32 (c b : BitVec 8) (s : State) : Answer := updateByte .w32 c b s

/-- `UPD.32` (R105). -/
def execUpd32 (c : BitVec 8) (s : State) : Answer := updateBuffer .w32 c s

/-- `UPDS.32` (R106). -/
def execUpds32 (c : BitVec 8) (s : State) : Answer := updateSlice .w32 c s

/-- `VALUE.32` (R107). -/
def execValue32 (c : BitVec 8) (s : State) : Answer := readValue .w32 c s

/-! The 64-bit unit. -/

/-- `NEW.64` (R117). -/
def execNew64 (c : BitVec 8) (p sd : Bool) (s : State) : Answer := newAcc .w64 c p sd s

/-- `RESET.64` (R118). -/
def execReset64 (c : BitVec 8) (s : State) : Answer := resetAcc .w64 c s

/-- `UPDB.64` (R119). -/
def execUpdb64 (c b : BitVec 8) (s : State) : Answer := updateByte .w64 c b s

/-- `UPD.64` (R120). -/
def execUpd64 (c : BitVec 8) (s : State) : Answer := updateBuffer .w64 c s

/-- `UPDS.64` (R121). -/
def execUpds64 (c : BitVec 8) (s : State) : Answer := updateSlice .w64 c s

/-- `VALUE.64` (R122). -/
def execValue64 (c : BitVec 8) (s : State) : Answer := readValue .w64 c s

end Sys2Proof.Machine
end

