-- ==== Sys2Proof/Machine/Compute.lean ====
section
/-! DEFINITION. The stateless compute commands of both widths (44 R130 to R136). The seed is used as given; the result is the
finalized value as an integer. -/

namespace Sys2Proof.Machine

/-- COMP1 at either width: canonical polynomial, default seed (R131, R134). -/
def comp1 (W : Width) (s : State) : Answer :=
  computeOn W (Config.consts W).canonPoly (Config.consts W).defaultSeed s

/-- COMP2 at either width: canonical polynomial, seed from its port (R132, R135). -/
def comp2 (W : Width) (s : State) : Answer := computeOn W (Config.consts W).canonPoly (portSeed W s) s

/-- COMP3 at either width: polynomial and seed from their ports (R133, R136). -/
def comp3 (W : Width) (s : State) : Answer := computeOn W (portPoly W s) (portSeed W s) s

/-- `COMP1.32` (R131). -/
def execComp1w32 (s : State) : Answer := comp1 .w32 s

/-- `COMP2.32` (R132). -/
def execComp2w32 (s : State) : Answer := comp2 .w32 s

/-- `COMP3.32` (R133). -/
def execComp3w32 (s : State) : Answer := comp3 .w32 s

/-- `COMP1.64` (R134). -/
def execComp1w64 (s : State) : Answer := comp1 .w64 s

/-- `COMP2.64` (R135). -/
def execComp2w64 (s : State) : Answer := comp2 .w64 s

/-- `COMP3.64` (R136). -/
def execComp3w64 (s : State) : Answer := comp3 .w64 s

end Sys2Proof.Machine
end

