-- ==== Sys2Proof/Machine/Finalization.lean ====
section
/-! DEFINITION. The finalizing commands of both widths: FINAL and DIGEST (45 R142 to R145). Neither writes a context: the
finalized value is computed on demand and never stored back (10_state R21). -/

namespace Sys2Proof.Machine

/-- FINAL at either width (R142, R144). -/
def finalValue (W : Width) (c : BitVec 8) (s : State) : Answer :=
  withAcc W c s fun a => .next (s.respond (.ok (.value W (fin (Config.consts W) a.cur))))

/-- DIGEST at either width (R143, R145): the bytes of the finalized value, not of the raw one. -/
def digestBytes (W : Width) (c : BitVec 8) (s : State) : Answer :=
  withAcc W c s fun a => .next (s.respond (.ok (.digest (be (fin (Config.consts W) a.cur)))))

/-- `FINAL.32` (R142). -/
def execFinal32 (c : BitVec 8) (s : State) : Answer := finalValue .w32 c s

/-- `DIGEST.32` (R143). -/
def execDigest32 (c : BitVec 8) (s : State) : Answer := digestBytes .w32 c s

/-- `FINAL.64` (R144). -/
def execFinal64 (c : BitVec 8) (s : State) : Answer := finalValue .w64 c s

/-- `DIGEST.64` (R145). -/
def execDigest64 (c : BitVec 8) (s : State) : Answer := digestBytes .w64 c s

end Sys2Proof.Machine
end

