-- ==== Sys2Proof/Machine/Tables.lean ====
section
/-! DEFINITION. The table commands of both widths: TBUILD (40 R85, R86), TGET and CFLUSH (41 R94 to R97). -/

namespace Sys2Proof.Machine

/-- TBUILD at either width (R85, R86): a table built directly; the cache is neither read nor written, whatever the
polynomial. -/
def buildTable (W : Width) (s : State) : Answer :=
  .next (s.respond (.ok (.table W (build (portPoly W s)))))

/-- TGET at either width (R94, R95): a table obtained through the cache. -/
def getTable (W : Width) (s : State) : Answer :=
  let look := getOrBuild (Config.consts W) (s.unit W) (portPoly W s)
  .next ((s.setUnit W look.2).respond (.ok (.table W look.1)))

/-- CFLUSH at either width (R96, R97). -/
def flushCache (W : Width) (s : State) : Answer :=
  .next ((s.setUnit W (s.unit W).flush).respond (.ok .nothing))

/-- `TBUILD.32` (R85). -/
def execTbuild32 (s : State) : Answer := buildTable .w32 s

/-- `TGET.32` (R94). -/
def execTget32 (s : State) : Answer := getTable .w32 s

/-- `CFLUSH.32` (R96). -/
def execCflush32 (s : State) : Answer := flushCache .w32 s

/-- `TBUILD.64` (R86). -/
def execTbuild64 (s : State) : Answer := buildTable .w64 s

/-- `TGET.64` (R95). -/
def execTget64 (s : State) : Answer := getTable .w64 s

/-- `CFLUSH.64` (R97). -/
def execCflush64 (s : State) : Answer := flushCache .w64 s

end Sys2Proof.Machine
end

