-- ==== Sys2Proof/Machine/Dispatch.lean ====
section
/-! DEFINITION. The meaning of every command: one arm per constructor of Instr, one direct call each. -/

namespace Sys2Proof.Machine

/-- The execution of one command on a state whose ports carry its operands. -/
def exec (i : Instr) (s : State) : Host.Outcome State Fault Refusal :=
  match i with
  -- the 32-bit unit
  | .new32 c p sd => Sys2Proof.Machine.execNew32 c p sd s
  | .reset32 c => Sys2Proof.Machine.execReset32 c s
  | .updb32 c b => Sys2Proof.Machine.execUpdb32 c b s
  | .upd32 c => Sys2Proof.Machine.execUpd32 c s
  | .upds32 c => Sys2Proof.Machine.execUpds32 c s
  | .value32 c => Sys2Proof.Machine.execValue32 c s
  | .final32 c => Sys2Proof.Machine.execFinal32 c s
  | .digest32 c => Sys2Proof.Machine.execDigest32 c s
  | .comp1_32 => Sys2Proof.Machine.execComp1w32 s
  | .comp2_32 => Sys2Proof.Machine.execComp2w32 s
  | .comp3_32 => Sys2Proof.Machine.execComp3w32 s
  | .tbuild32 => Sys2Proof.Machine.execTbuild32 s
  | .tget32 => Sys2Proof.Machine.execTget32 s
  | .cflush32 => Sys2Proof.Machine.execCflush32 s
  -- the 64-bit unit
  | .new64 c p sd => Sys2Proof.Machine.execNew64 c p sd s
  | .reset64 c => Sys2Proof.Machine.execReset64 c s
  | .updb64 c b => Sys2Proof.Machine.execUpdb64 c b s
  | .upd64 c => Sys2Proof.Machine.execUpd64 c s
  | .upds64 c => Sys2Proof.Machine.execUpds64 c s
  | .value64 c => Sys2Proof.Machine.execValue64 c s
  | .final64 c => Sys2Proof.Machine.execFinal64 c s
  | .digest64 c => Sys2Proof.Machine.execDigest64 c s
  | .comp1_64 => Sys2Proof.Machine.execComp1w64 s
  | .comp2_64 => Sys2Proof.Machine.execComp2w64 s
  | .comp3_64 => Sys2Proof.Machine.execComp3w64 s
  | .tbuild64 => Sys2Proof.Machine.execTbuild64 s
  | .tget64 => Sys2Proof.Machine.execTget64 s
  | .cflush64 => Sys2Proof.Machine.execCflush64 s

end Sys2Proof.Machine
end

