-- ==== Sys2Proof/Machine/Step.lean ====
section
/-! DEFINITION. One step of the block: the next event from outside is taken; a command is decoded and executed, or answered
with `IllegalCommand`; power-on reset is applied; with nothing pending the block idles (20_memory R50, 30_encoding R65, 70
R171). And the placing of one command where the next step takes it. -/

namespace Sys2Proof.Machine

/-- One step (20_memory R50: one command is one atomic transition). -/
def step (s : State) : Host.Outcome State Fault Refusal :=
  match s.pending with
  | [] => .next s
  | .powerOn inFlight :: rest => .next (s.powerOn inFlight rest)
  | .issue c :: rest =>
    match s.decodeHeader c.header with
    | .error e => .next ((s.take c rest).raise (.illegalCommand e))
    | .ok i => if beyondPorts i (s.take c rest) then .fault .unpresentable else exec i (s.take c rest)

/-- The state with the command of the header word `w` issued ahead of all that is pending, its operand ports carrying what
`ports` says, so that the very next step takes it (log 2). A command is one 32-bit header word, whatever number of bits the
table gives its row (30_encoding R69). -/
def State.withFetchWord (s : State) (_nbits w : Nat) : State :=
  { s with pending := .issue { header := BitVec.ofNat 32 w, ports := s.ports } :: s.pending }

end Sys2Proof.Machine
end

