-- ==== Sys2Proof/Machine/Assemble.lean ====
section
/-! DEFINITION. The written forms of the commands (30_encoding R71) and the pseudo-instructions (R72), each as the header
fields and the ports it stands for. A form here is what a line denotes; its text is read in
`Machine/AssemblyText.lean`. -/

namespace Sys2Proof.Machine

/-- The forms of R71's table. `null` is an absent buffer, so `none`. -/
inductive Form where
  | new (W : Width) (c : BitVec 8) (poly seed : Option (BitVec W.bits))
  | reset (W : Width) (c : BitVec 8)
  | updb (W : Width) (c b : BitVec 8)
  | upd (W : Width) (c : BitVec 8) (buf : Option (List Byte))
  | upds (W : Width) (c : BitVec 8) (buf : Option (List Byte)) (off len : Nat)
  | value (W : Width) (c : BitVec 8)
  | final (W : Width) (c : BitVec 8)
  | digest (W : Width) (c : BitVec 8)
  | comp1 (W : Width) (buf : Option (List Byte))
  | comp2 (W : Width) (seed : BitVec W.bits) (buf : Option (List Byte))
  | comp3 (W : Width) (poly seed : BitVec W.bits) (buf : Option (List Byte))
  | tbuild (W : Width) (poly : BitVec W.bits)
  | tget (W : Width) (poly : BitVec W.bits)
  | cflush (W : Width)
  deriving DecidableEq, Repr

/-- The pseudo-instructions (R72). -/
inductive Pseudo where
  /-- `COMPUTE.W buffer` -/
  | compute1 (W : Width) (buf : Option (List Byte))
  /-- `COMPUTE.W seed, buffer` -/
  | compute2 (W : Width) (seed : BitVec W.bits) (buf : Option (List Byte))
  /-- `COMPUTE.W poly, seed, buffer` -/
  | compute3 (W : Width) (poly seed : BitVec W.bits) (buf : Option (List Byte))
  /-- `NEWISO.64 cN`, with or without a seed; it cannot take a polynomial (43 R124) -/
  | newIso (c : BitVec 8) (seed : Option (BitVec 64))
  deriving DecidableEq, Repr

/-- The expansion of a pseudo-instruction (R72). -/
def Pseudo.expand : Pseudo → Form
  | .compute1 W B => .comp1 W B
  | .compute2 W S B => .comp2 W S B
  | .compute3 W P S B => .comp3 W P S B
  | .newIso c S => .new .w64 c none S

/-- The command of the unit `W` from the two units' rows (30_encoding R66: one row per operation and width). -/
def ofUnit {α : Type} (W : Width) (a32 a64 : α) : α :=
  match W with
  | .w32 => a32
  | .w64 => a64

/-- The command a form selects (R71, R66). -/
def Form.instr : Form → Instr
  | .new W c P S => ofUnit W (.new32 c P.isSome S.isSome) (.new64 c P.isSome S.isSome)
  | .reset W c => ofUnit W (.reset32 c) (.reset64 c)
  | .updb W c b => ofUnit W (.updb32 c b) (.updb64 c b)
  | .upd W c _ => ofUnit W (.upd32 c) (.upd64 c)
  | .upds W c _ _ _ => ofUnit W (.upds32 c) (.upds64 c)
  | .value W c => ofUnit W (.value32 c) (.value64 c)
  | .final W c => ofUnit W (.final32 c) (.final64 c)
  | .digest W c => ofUnit W (.digest32 c) (.digest64 c)
  | .comp1 W _ => ofUnit W .comp1_32 .comp1_64
  | .comp2 W _ _ => ofUnit W .comp2_32 .comp2_64
  | .comp3 W _ _ _ => ofUnit W .comp3_32 .comp3_64
  | .tbuild W _ => ofUnit W .tbuild32 .tbuild64
  | .tget W _ => ofUnit W .tget32 .tget64
  | .cflush W => ofUnit W .cflush32 .cflush64

/-- A polynomial or seed on the 64 lines of its port (30_encoding R62; log 4). -/
def onPort {w : Nat} (v : BitVec w) : BitVec 64 := v.setWidth 64

/-- What a form puts on the operand ports (R71); a port the command does not use carries 0. -/
def Form.ports : Form → Ports
  | .new _ _ P S =>
    { Ports.idle with
      poly := (match P with | none => 0#64 | some v => onPort v)
      seed := (match S with | none => 0#64 | some v => onPort v) }
  | .upd _ _ B => { Ports.idle with buf := B }
  | .upds _ _ B o n => { Ports.idle with buf := B, off := o, len := n }
  | .comp1 _ B => { Ports.idle with buf := B }
  | .comp2 _ S B => { Ports.idle with seed := onPort S, buf := B }
  | .comp3 _ P S B => { Ports.idle with poly := onPort P, seed := onPort S, buf := B }
  | .tbuild _ P => { Ports.idle with poly := onPort P }
  | .tget _ P => { Ports.idle with poly := onPort P }
  | .reset .. | .updb .. | .value .. | .final .. | .digest .. | .cflush _ => Ports.idle

/-- The command transaction a form stands for (R60, R71). -/
def Form.command (f : Form) : Command where
  header := encode f.instr
  ports := f.ports

end Sys2Proof.Machine
end

