-- ==== Sys2Proof/Safety.lean ====
section
/-! DEFINITION. The terms claims are made in: the invariant of the block (every table is the built one of its polynomial),
what a command names and writes, which fault a command is answered with in the order of 60_exceptions R154, and what stays
visible when the shared tables are hidden. -/

namespace Sys2Proof

/-! What a command names, reads and writes. -/

/-- The command names the context `c` of the unit `W`. -/
def Instr.names (i : Instr) (W : Width) (c : Nat) : Bool :=
  decide (i.unit = W) && decide (i.context.map BitVec.toNat = some c)

/-- The command is one of those that write `CUR` (10_state R20): NEW, RESET, UPDB, UPD, UPDS. -/
def Instr.writesCur : Instr → Bool
  | .new32 .. | .reset32 _ | .updb32 .. | .upd32 _ | .upds32 _ => true
  | .new64 .. | .reset64 _ | .updb64 .. | .upd64 _ | .upds64 _ => true
  | .value32 _ | .final32 _ | .digest32 _ | .comp1_32 | .comp2_32 | .comp3_32 | .tbuild32 | .tget32 | .cflush32 => false
  | .value64 _ | .final64 _ | .digest64 _ | .comp1_64 | .comp2_64 | .comp3_64 | .tbuild64 | .tget64 | .cflush64 => false

/-- The command takes a slice of its buffer (60_exceptions R150). -/
def Instr.takesSlice : Instr → Bool
  | .upds32 _ | .upds64 _ => true
  | .new32 .. | .reset32 _ | .updb32 .. | .upd32 _ | .value32 _ | .final32 _ | .digest32 _ => false
  | .comp1_32 | .comp2_32 | .comp3_32 | .tbuild32 | .tget32 | .cflush32 => false
  | .new64 .. | .reset64 _ | .updb64 .. | .upd64 _ | .value64 _ | .final64 _ | .digest64 _ => false
  | .comp1_64 | .comp2_64 | .comp3_64 | .tbuild64 | .tget64 | .cflush64 => false

end Sys2Proof

namespace Sys2Proof.Machine

/-! The invariant. -/

/-- The table of an accumulator is the right one: SHARED exactly when its polynomial is the canonical one of its width, and
an owned table is the built one (10_state R24, R27; 41 R92). -/
def Acc.Sound {w : Nat} (K : UnitConsts w) (a : Acc w) : Prop :=
  match a.tab with
  | .shared => a.poly = K.canonPoly
  | .owned T => a.poly ≠ K.canonPoly ∧ T = build a.poly

/-- A unit is sound: it has 1 to 256 contexts (00_scope R6), a valid shared table is the built one of the canonical
polynomial (10_state R26), and so is every accumulator's table of its own (R24). -/
def CrcUnit.Sound {w : Nat} (K : UnitConsts w) (u : CrcUnit w) : Prop :=
  (1 ≤ u.bank.length ∧ u.bank.length ≤ 256) ∧
  (∀ T, u.st = some T → T = build K.canonPoly) ∧
  (∀ a, some a ∈ u.bank → a.Sound K)

/-- The invariant of the block: both units are sound and `LENW` is in its range (00_scope R6). -/
def State.Sound (s : State) : Prop :=
  s.u32.Sound Config.consts32 ∧ s.u64.Sound Config.consts64 ∧ (1 ≤ s.lenw ∧ s.lenw ≤ 64)

/-! The fault a command is answered with. -/

/-- The number of contexts of a unit, `NCTX_W`. -/
def State.nctx (s : State) : Width → Nat
  | .w32 => s.u32.bank.length
  | .w64 => s.u64.bank.length

/-- The condition of `IllegalCommand(CTX_RANGE)` (30_encoding R65 step 4), which on a step the decoder has found already
(log 14). -/
def ctxOutOfRange (i : Instr) (s : State) : Bool :=
  match i.context with
  | none => false
  | some c => decide (s.nctx i.unit ≤ c.toNat)

/-- The condition of `InvalidArgument(BUFFER_ABSENT)` (60_exceptions R151). -/
def bufferAbsent (i : Instr) (s : State) : Bool := i.takesBuffer && s.ports.buf.isNone

/-- The condition of `InvalidArgument(SLICE_RANGE)` (60_exceptions R151): the buffer is present and `OFF + LEN > BLEN`. -/
def sliceOutOfRange (i : Instr) (s : State) : Bool :=
  match s.ports.buf with
  | none => false
  | some B => i.takesSlice && decide (B.length < s.ports.off + s.ports.len)

/-- The one fault a decoded command is answered with, the first that applies in the order of 60_exceptions R154, or none. That a
command executed on a context the bank does not have is answered `CTX_RANGE` is the model's choice (log 14). -/
def faultOf (i : Instr) (s : State) : Option CmdFault :=
  if ctxOutOfRange i s then some (.illegalCommand .ctxRange)
  else if unconfigured i s then some .notConfigured
  else if bufferAbsent i s then some (.invalidArgument .bufferAbsent)
  else if sliceOutOfRange i s then some (.invalidArgument .sliceRange)
  else none

/-- The one fault an issued command is answered with, or none: an illegal header word first, in the order of 30_encoding R65,
then the faults of the command it selects, with its operands on the ports (60_exceptions R154). -/
def commandFault (c : Command) (s : State) : Option CmdFault :=
  match s.decodeHeader c.header with
  | .error e => some (.illegalCommand e)
  | .ok i => faultOf i { s with ports := c.ports }

/-! What is visible of a state: everything but the shared tables (10_state R28). -/

/-- The state with both shared tables hidden. -/
def State.hideCache (s : State) : State :=
  { s with u32 := { s.u32 with st := none }, u64 := { s.u64 with st := none } }

/-- Two answers differ at most in the shared tables. -/
def sameButCache : Answer → Answer → Prop
  | .next s, .next t => s.hideCache = t.hideCache
  | .fault f, .fault g => f = g
  | .refused q, .refused r => q = r
  | .next _, .fault _ | .next _, .refused _ | .fault _, .next _ => False
  | .fault _, .refused _ | .refused _, .next _ | .refused _, .fault _ => False

/-- The shared table of a unit after a use of the table of `P` (41 R90, R91): the canonical one is there when `P` is the
canonical polynomial, and nothing has changed otherwise. -/
def stAfter {w : Nat} (K : UnitConsts w) (u : CrcUnit w) (P : BitVec w) : Option (Table w) :=
  if P = K.canonPoly then some (build K.canonPoly) else u.st

/-- `compute_W(P, S, B)` of 44 R130 with the table written out as `build_W(P)`. -/
def compute {w : Nat} (K : UnitConsts w) (P S : BitVec w) (B : List Byte) : BitVec w := fin K (fold (build P) S B)

/-- How a claim about either width reaches one unit of a state. -/
structure UnitView (W : Width) where
  /-- the unit -/
  get : State → CrcUnit W.bits
  /-- the state with that unit replaced and nothing else -/
  put : State → CrcUnit W.bits → State
  /-- the unit's constants -/
  consts : UnitConsts W.bits
  /-- a polynomial or seed port as the unit has it -/
  port : BitVec 64 → BitVec W.bits

/-- The 32-bit unit: it has the low 32 lines of a port (30_encoding R62, log 4). -/
def view32 : UnitView .w32 where
  get := fun s => s.u32
  put := fun s u => { s with u32 := u }
  consts := Config.consts32
  port := fun v => v.extractLsb' 0 32

/-- The 64-bit unit. -/
def view64 : UnitView .w64 where
  get := fun s => s.u64
  put := fun s u => { s with u64 := u }
  consts := Config.consts64
  port := fun v => v

/-- A response is given, latest first. -/
def answered (s : State) (r : Response) : State := { s with out := r :: s.out }

/-- A header word selects a row exactly when `(h & mask) == match`, and `i h` is the command of that row with the word's
fields (30_encoding R67). -/
def Selects (pattern mask : BitVec 32) (i : BitVec 32 → Instr) : Prop :=
  ∀ h, h &&& mask = pattern ↔ decodeRow h = .ok (i h)

end Sys2Proof.Machine
end

