-- ==== Sys2Proof/Certificates/Slice0/Obligations.lean ====
section
/-! DEFINITION. The statements about the block, for the provers: first the shapes that say a rule once for either width, then
the obligations. -/

open Sys2Proof Sys2Proof.Machine

namespace Sys2Proof.Claims

/-- The context `c` of a unit is configured and holds `a`. -/
def Holds {W : Width} (V : UnitView W) (s : State) (c : BitVec 8) (a : Acc W.bits) : Prop :=
  (V.get s).bank[c.toNat]? = some (some a)

/-- The context `c` of a unit exists and is not configured. -/
def Unconfigured {W : Width} (V : UnitView W) (s : State) (c : BitVec 8) : Prop :=
  (V.get s).bank[c.toNat]? = some none

/-- A command that needs a configured context answers `NotConfigured` on any other, and nothing else changes (R153). -/
def FaultsUnconfigured {W : Width} (V : UnitView W) (i : BitVec 8 → Instr) : Prop :=
  ∀ s c, Unconfigured V s c → exec (i c) s = .next (answered s (.fault .notConfigured))

/-- NEW (R102, R117): its row; every context number of the bank and every polynomial and seed is accepted; every field of the
context is written, the shared table is filled for the canonical polynomial, and nothing else changes. -/
def NewRule {W : Width} (V : UnitView W) (pattern mask : BitVec 32) (i : BitVec 8 → Bool → Bool → Instr) : Prop :=
  Selects pattern mask (fun h => i (h.extractLsb' 16 8) (h.getLsbD 8) (h.getLsbD 9)) ∧
  ∀ s c p sd P S, (V.get s).Sound V.consts → c.toNat < (V.get s).bank.length →
    P = (if p then V.port s.ports.poly else V.consts.canonPoly) →
    S = (if sd then V.port s.ports.seed else V.consts.defaultSeed) →
    exec (i c p sd) s = .next (answered
      (V.put s
        { bank := (V.get s).bank.set c.toNat
            (some { poly := P, seed := S, cur := S, tab := if P = V.consts.canonPoly then .shared else .owned (build P) })
          st := stAfter V.consts (V.get s) P })
      (.ok .nothing))

/-- RESET (R103, R118). -/
def ResetRule {W : Width} (V : UnitView W) (pattern mask : BitVec 32) (i : BitVec 8 → Instr) : Prop :=
  Selects pattern mask (fun h => i (h.extractLsb' 16 8)) ∧ FaultsUnconfigured V i ∧
  ∀ s c a, Holds V s c a →
    exec (i c) s = .next (answered
      (V.put s { V.get s with bank := (V.get s).bank.set c.toNat (some { a with cur := a.seed }) }) (.ok .nothing))

/-- What a command that accumulates the bytes `X` on context `c` leaves (R101, R116, R92): `CUR` is folded over `X` with the
built table of the context's polynomial, the shared table is there if it was used, and nothing else changes. -/
def accumulated {W : Width} (V : UnitView W) (s : State) (c : BitVec 8) (a : Acc W.bits) (X : List Byte) : State :=
  answered
    (V.put s
      { bank := (V.get s).bank.set c.toNat (some { a with cur := fold (build a.poly) a.cur X })
        st := stAfter V.consts (V.get s) a.poly })
    (.ok .nothing)

/-- UPDB (R104, R119). -/
def UpdateByteRule {W : Width} (V : UnitView W) (pattern mask : BitVec 32) (i : BitVec 8 → BitVec 8 → Instr) : Prop :=
  Selects pattern mask (fun h => i (h.extractLsb' 16 8) (h.extractLsb' 8 8)) ∧
  (∀ b, FaultsUnconfigured V (fun c => i c b)) ∧
  ∀ s c b a, (V.get s).Sound V.consts → Holds V s c a → exec (i c b) s = .next (accumulated V s c a [b])

/-- UPD (R105, R120). -/
def UpdateBufferRule {W : Width} (V : UnitView W) (pattern mask : BitVec 32) (i : BitVec 8 → Instr) : Prop :=
  Selects pattern mask (fun h => i (h.extractLsb' 16 8)) ∧ FaultsUnconfigured V i ∧
  (∀ s c a, Holds V s c a → s.ports.buf = none →
    exec (i c) s = .next (answered s (.fault (.invalidArgument .bufferAbsent)))) ∧
  ∀ s c a B, (V.get s).Sound V.consts → Holds V s c a → s.ports.buf = some B →
    exec (i c) s = .next (accumulated V s c a B)

/-- UPDS (R106, R121): the slice is the bytes `B[OFF + j]`, `j` from 0 below `LEN`, in ascending order. -/
def UpdateSliceRule {W : Width} (V : UnitView W) (pattern mask : BitVec 32) (i : BitVec 8 → Instr) : Prop :=
  Selects pattern mask (fun h => i (h.extractLsb' 16 8)) ∧ FaultsUnconfigured V i ∧
  (∀ s c a, Holds V s c a → s.ports.buf = none →
    exec (i c) s = .next (answered s (.fault (.invalidArgument .bufferAbsent)))) ∧
  (∀ s c a B, Holds V s c a → s.ports.buf = some B → B.length < s.ports.off + s.ports.len →
    exec (i c) s = .next (answered s (.fault (.invalidArgument .sliceRange)))) ∧
  ∀ s c a B X, (V.get s).Sound V.consts → Holds V s c a → s.ports.buf = some B →
    s.ports.off + s.ports.len ≤ B.length → X.length = s.ports.len →
    (∀ j, j < s.ports.len → X[j]? = B[s.ports.off + j]?) →
    exec (i c) s = .next (accumulated V s c a X)

/-- A command that reads a context and writes nothing (R107, R122, R142 to R145): what it answers is `res` of the running
value. -/
def ReadRule {W : Width} (V : UnitView W) (pattern mask : BitVec 32) (i : BitVec 8 → Instr)
    (res : BitVec W.bits → Result) : Prop :=
  Selects pattern mask (fun h => i (h.extractLsb' 16 8)) ∧ FaultsUnconfigured V i ∧
  ∀ s c a, Holds V s c a → exec (i c) s = .next (answered s (.ok (res a.cur)))

/-- A compute command (R131 to R136) that works with the polynomial `P s` and the seed `S s`: an absent buffer is refused
with nothing changed; otherwise it answers the finalized fold and leaves every context, and the cache but for a population.
-/
def ComputeRule {W : Width} (V : UnitView W) (pattern : BitVec 32) (i : Instr) (P S : State → BitVec W.bits) : Prop :=
  Selects pattern 0xFFFFFFFF#32 (fun _ => i) ∧
  (∀ s, s.ports.buf = none → exec i s = .next (answered s (.fault (.invalidArgument .bufferAbsent)))) ∧
  ∀ s B, (V.get s).Sound V.consts → s.ports.buf = some B →
    exec i s = .next (answered (V.put s { V.get s with st := stAfter V.consts (V.get s) (P s) })
      (.ok (.value W (fold (build (P s)) (S s) B ^^^ V.consts.xorOut))))

/-- TBUILD (R85, R86): no state is written, and the table answered has `build_W(POLY)[i]` as its entry `i`. -/
def TableBuildRule {W : Width} (V : UnitView W) (pattern : BitVec 32) (i : Instr) : Prop :=
  Selects pattern 0xFFFFFFFF#32 (fun _ => i) ∧
  ∀ s, exec i s = .next (answered s (.ok (.table W (build (V.port s.ports.poly)))))

/-- TGET (R94, R95): the same table, through the cache. -/
def TableGetRule {W : Width} (V : UnitView W) (pattern : BitVec 32) (i : Instr) : Prop :=
  Selects pattern 0xFFFFFFFF#32 (fun _ => i) ∧
  ∀ s, (V.get s).Sound V.consts →
    exec i s = .next (answered
      (V.put s { V.get s with st := stAfter V.consts (V.get s) (V.port s.ports.poly) })
      (.ok (.table W (build (V.port s.ports.poly)))))

/-- CFLUSH (R96, R97): the shared table holds no value any more, and nothing else changes. -/
def FlushRule {W : Width} (V : UnitView W) (pattern : BitVec 32) (i : Instr) : Prop :=
  Selects pattern 0xFFFFFFFF#32 (fun _ => i) ∧
  ∀ s, exec i s = .next (answered (V.put s { V.get s with st := none }) (.ok .nothing))

/-- The bytes of the ASCII string "123456789" (95_test_vectors). -/
def digits : List Byte := [0x31, 0x32, 0x33, 0x34, 0x35, 0x36, 0x37, 0x38, 0x39]

/-- A run of UPD commands over the buffers `Bs` on one context (R108 laws 1 and 4; R123). -/
def SplittingFor {W : Width} (V : UnitView W) : Prop :=
  ∀ (s : State) (c : BitVec 8) (a : Acc W.bits) (Bs : List (List Byte)),
    (V.get s).Sound V.consts → Holds V s c a → (∀ B ∈ Bs, B.length < 2 ^ s.lenw) →
    s.pending = Bs.map (fun B => .issue (Form.upd W c (some B)).command) →
    ∃ t : State, core.run Bs.length s = .next t ∧
      (V.get t).bank = (V.get s).bank.set c.toNat (some { a with cur := fold (build a.poly) a.cur Bs.flatten })

/-- The three update forms agree (R108 laws 2 and 3; R123): from one state, UPD over `B`, UPDS over the whole of `B` and a
run of UPDB over its bytes leave the same bank; and UPDS over a slice leaves the bank of UPD over a buffer holding that
slice. -/
def UpdateFormsFor {W : Width} (V : UnitView W) : Prop :=
  ∀ (s : State) (c : BitVec 8) (a : Acc W.bits) (B X : List Byte) (o n : Nat),
    (V.get s).Sound V.consts → Holds V s c a → B.length < 2 ^ s.lenw → o + n ≤ B.length →
    X = (B.drop o).take n →
    ∃ t1 t2 t3 t4 t5 : State,
      core.run 1 { s with pending := [.issue (Form.upd W c (some B)).command] } = .next t1 ∧
      core.run 1 { s with pending := [.issue (Form.upds W c (some B) 0 B.length).command] } = .next t2 ∧
      core.run B.length { s with pending := B.map (fun b => .issue (Form.updb W c b).command) } = .next t3 ∧
      core.run 1 { s with pending := [.issue (Form.upds W c (some B) o n).command] } = .next t4 ∧
      core.run 1 { s with pending := [.issue (Form.upd W c (some X)).command] } = .next t5 ∧
      (V.get t1).bank = (V.get t2).bank ∧ (V.get t1).bank = (V.get t3).bank ∧ (V.get t4).bank = (V.get t5).bank

/-- A stateless command `comp` answers what the three commands NEW, UPD, FINAL answer at their end (R137 law 1). -/
def RoundTripFor {W : Width} (V : UnitView W) (comp : List Byte → Form) (P S : Option (BitVec W.bits)) : Prop :=
  ∀ (s : State) (c : BitVec 8) (B : List Byte),
    (V.get s).Sound V.consts → c.toNat < (V.get s).bank.length → B.length < 2 ^ s.lenw →
    ∃ (t u : State) (r : BitVec W.bits),
      core.run 3 { s with pending := [.issue (Form.new W c P S).command, .issue (Form.upd W c (some B)).command,
        .issue (Form.final W c).command] } = .next t ∧
      core.run 1 { s with pending := [.issue (comp B).command] } = .next u ∧
      t.out = .ok (.value W r) :: .ok .nothing :: .ok .nothing :: s.out ∧
      u.out = .ok (.value W r) :: s.out

/-- What a command can change in a unit's shared table (R93): nothing, a population of an empty one, or, if it is a flush of
that unit, emptying it. -/
def CacheChange {w : Nat} (K : UnitConsts w) (flush : Prop) (u v : CrcUnit w) : Prop :=
  v.st = u.st ∨ (u.st = none ∧ v.st = some (build K.canonPoly)) ∨ (v.st = none ∧ flush)

end Sys2Proof.Claims

open Sys2Proof.Claims

/-! Encoding. -/

/-- Words of 95_test_vectors V21, written out from 30_encoding R61 and R66, decode to the commands beside them. -/
def Obligations.SpecWordsDecode : Prop :=
  decodeRow 0x00010100#32 = .ok (.new32 1#8 true false) ∧
  decodeRow 0x00000200#32 = .ok (.new32 0#8 false true) ∧
  decodeRow 0x01000000#32 = .ok (.reset32 0#8) ∧
  decodeRow 0x02003100#32 = .ok (.updb32 0#8 0x31#8) ∧
  decodeRow 0x12013100#32 = .ok (.updb64 1#8 0x31#8) ∧
  decodeRow 0x14010000#32 = .ok (.upds64 1#8) ∧
  decodeRow 0x07050000#32 = .ok (.digest32 5#8) ∧
  decodeRow 0x18000200#32 = .ok .comp2_64 ∧
  decodeRow 0x09000000#32 = .ok .tbuild32 ∧
  decodeRow 0x1B000000#32 = .ok .cflush64

/-- Every command, with every operand at every value its encoding admits, decodes from its own header word; and the block
accepts that word whenever the command is well formed for its numbers of contexts. -/
def Obligations.DecodeOfEncode : Prop :=
  ∀ i : Instr, decodeRow (encode i) = .ok i ∧
    ∀ n32 n64, i.wf n32 n64 = true → decode n32 n64 (encode i) = .ok i

/-- Each word has one meaning: a word that decodes is the header word of the command it decodes to. -/
def Obligations.EncodeOfDecode : Prop :=
  ∀ (h : BitVec 32) (i : Instr), decodeRow h = .ok i → encode i = h

/-- R67: a header word selects the row of a command exactly when `(h & mask) == match`; a word that matches no row is
illegal; a word that matches a context row whose context number is not below the number of contexts is illegal with
`CTX_RANGE`. -/
def Obligations.MatchMaskSelectsRow : Prop :=
  (∀ (h : BitVec 32) (i : Instr), h &&& i.maskWord = i.matchWord ↔
    ∃ j : Instr, decodeRow h = .ok j ∧ j.matchWord = i.matchWord) ∧
  (∀ h : BitVec 32, (∀ i : Instr, h &&& i.maskWord ≠ i.matchWord) → ∃ e, decodeRow h = .error e) ∧
  (∀ (h : BitVec 32) (i : Instr) (c : BitVec 8) (n32 n64 : Nat), decodeRow h = .ok i → i.context = some c →
    (match i.unit with | .w32 => n32 | .w64 => n64) ≤ c.toNat → decode n32 n64 h = .error .ctxRange)

/-- R65: the order of the block's decision, on the word read as a number. -/
def Obligations.DecodingOrder : Prop :=
  ∀ (n32 n64 : Nat) (h : BitVec 32) (H op ctx imm nctx : Nat), H = h.toNat → op = H / 2 ^ 24 % 16 →
    ctx = H / 2 ^ 16 % 256 → imm = H / 2 ^ 8 % 256 → nctx = (if H / 2 ^ 28 % 2 = 0 then n32 else n64) →
    if H / 2 ^ 29 ≠ 0 ∨ H % 256 ≠ 0 then decode n32 n64 h = .error .reservedBits
    else if 0xC ≤ op then decode n32 n64 h = .error .reservedOp
    else if (op = 0 ∨ op = 8) ∧ imm / 4 ≠ 0 then decode n32 n64 h = .error .reservedFlags
    else if op = 8 ∧ imm % 4 = 1 then decode n32 n64 h = .error .reservedFlags
    else if op ≠ 0 ∧ op ≠ 8 ∧ op ≠ 2 ∧ imm ≠ 0 then decode n32 n64 h = .error .reservedBits
    else if 8 ≤ op ∧ ctx ≠ 0 then decode n32 n64 h = .error .reservedBits
    else if op < 8 ∧ nctx ≤ ctx then decode n32 n64 h = .error .ctxRange
    else ∃ i : Instr, decode n32 n64 h = .ok i ∧ encode i = h

/-! The step. -/

/-- When the next command's header decodes to a command well formed for this block, and its buffer, if it takes one that is
present, is one the block can be given (00_scope R9), the step is that command's execution with its operands on the ports, the
command taken from the list and the position advanced by one. -/
def Obligations.StepRunsDecodedCommand : Prop :=
  ∀ (s : State) (c : Command) (rest : List Event) (i : Instr), s.pending = .issue c :: rest →
    decodeRow c.header = .ok i → i.wf s.u32.bank.length s.u64.bank.length = true →
    (i.takesBuffer = true → ∀ B, c.ports.buf = some B → B.length < 2 ^ s.lenw) →
    step s = exec i { s with pending := rest, ports := c.ports, pos := s.pos + 1 }

/-- R152: a header word that selects no command is answered with `IllegalCommand` and its cause, and has no other effect,
whatever the ports carry. -/
def Obligations.IllegalCommandAnswered : Prop :=
  ∀ (s : State) (c : Command) (rest : List Event) (e : IllegalInfo), s.pending = .issue c :: rest →
    decode s.u32.bank.length s.u64.bank.length c.header = .error e →
    step s = .next { s with pending := rest, ports := c.ports, pos := s.pos + 1,
                            out := .fault (.illegalCommand e) :: s.out }

/-- With nothing pending the block idles; and the model stops exactly on a command that would read a buffer of `2^LENW` bytes or
more, which no block of that `LENW` can be given (00_scope R6, R9, 92 D3; that the model stops there is its own choice, log 6). -/
def Obligations.IdleAndUnpresentable : Prop :=
  (∀ s : State, s.pending = [] → step s = .next s) ∧
  (∀ s : State, (∃ f, step s = .fault f) ↔
    ∃ (c : Command) (rest : List Event) (i : Instr) (B : List Byte), s.pending = .issue c :: rest ∧
      decode s.u32.bank.length s.u64.bank.length c.header = .ok i ∧ i.takesBuffer = true ∧
      unconfigured i s = false ∧ c.ports.buf = some B ∧ 2 ^ s.lenw ≤ B.length) ∧
  (∀ (s : State) (q : Refusal), step s ≠ .refused q)

/-- R35: after power-on reset every context is unconfigured and both `VALID` bits are 0, whatever the parameters; the other
fields of a context and the entries of a shared table hold no value. -/
def Obligations.PowerOnValues : Prop :=
  ∀ p : Params, (State.por p).u32.bank.length = p.nctx32 ∧ (State.por p).u64.bank.length = p.nctx64 ∧
    (∀ x ∈ (State.por p).u32.bank, x = none) ∧ (∀ x ∈ (State.por p).u64.bank, x = none) ∧
    (State.por p).u32.st = none ∧ (State.por p).u64.st = none

/-- Power-on reset of a running block (R170, R171): every context unconfigured, both caches empty, the parameters kept, and
no response for a command in flight. What becomes of the model's own fields is the model's choice (log 13). -/
def Obligations.PowerOnOfRunningBlock : Prop :=
  ∀ (s : State) (o : Option Command) (rest : List Event), s.pending = .powerOn o :: rest →
    ∃ t, step s = .next t ∧ t.u32 = { bank := List.replicate s.u32.bank.length none, st := none } ∧
      t.u64 = { bank := List.replicate s.u64.bank.length none, st := none } ∧
      t.out = s.out ∧ t.pending = rest ∧ t.lenw = s.lenw

/-! The table builder. -/

/-- R80: one shift/XOR step, at either width. -/
def Obligations.BitstepRule : Prop :=
  ∀ (W : Width) (P e : BitVec W.bits),
    (e.getLsbD 0 = true → bitstep P e = (e >>> 1) ^^^ P ∧ (bitstep P e).msb = P.msb) ∧
    (e.getLsbD 0 = false → bitstep P e = e >>> 1 ∧ (bitstep P e).msb = false)

/-- R81: entry `i` of a table is eight steps from `i`, and is the byte step on `i` from a zero accumulator. -/
def Obligations.TableEntries : Prop :=
  ∀ (W : Width) (P : BitVec W.bits) (i : BitVec 8),
    tabRead (build P) i =
      bitstep P (bitstep P (bitstep P (bitstep P (bitstep P (bitstep P (bitstep P (bitstep P (i.setWidth W.bits)))))))) ∧
    acc (build P) 0 i = tabRead (build P) i

/-- R82: the bit-serial engine computes the table: after `n` micro-steps it has stored the first `n / 9` entries of
`build_W(P)` in ascending order, and from a whole build on it has stored all 256 and changes nothing more. A micro-step of
the model is one shift/XOR step or one store, so an entry takes nine (log 8). -/
def Obligations.BuilderComputesTable : Prop :=
  ∀ (W : Width) (P : BitVec W.bits),
    (∀ n, n ≤ 256 * (8 + 1) →
      (Builder.ticks n (Builder.start P)).dest = (build P).toList.take (n / 9) ∧
      (Builder.ticks n (Builder.start P)).i.toNat = n / 9 ∧ (Builder.ticks n (Builder.start P)).poly = P) ∧
    (Builder.ticks Builder.length (Builder.start P)).dest = (build P).toList ∧
    (∀ n, Builder.length ≤ n → (Builder.ticks n (Builder.start P)).dest = (build P).toList)

/-- R83, which the spec marks as derived from R80 and R81: the laws of the table. -/
def Obligations.TableLaws : Prop :=
  ∀ (W : Width) (P : BitVec W.bits),
    (∀ a b, bitstep P (a ^^^ b) = bitstep P a ^^^ bitstep P b) ∧ bitstep P 0 = 0 ∧
    (∀ i j, tabRead (build P) (i ^^^ j) = tabRead (build P) i ^^^ tabRead (build P) j) ∧ tabRead (build P) 0 = 0 ∧
    tabRead (build P) 0x80#8 = P ∧
    (∀ k, k < 8 → tabRead (build P) (1#8 <<< k) = bitsteps P (7 - k) P) ∧
    (∀ T : Table W.bits, (∀ i, tabRead T i = tabRead (build P) i) → T = build P)

/-- R84, marked derived: the zero polynomial has the all-zero table, over which a byte step is `cur >> 8`. -/
def Obligations.ZeroPolynomialTable : Prop :=
  ∀ (W : Width) (i : BitVec 8) (cur : BitVec W.bits),
    tabRead (build (0 : BitVec W.bits)) i = 0 ∧ acc (build (0 : BitVec W.bits)) cur i = cur >>> 8

/-- R87, marked derived: the table step equals eight bit steps, for every width, polynomial, running value and byte. -/
def Obligations.TableStepIsEightBitSteps : Prop :=
  ∀ (W : Width) (P cur : BitVec W.bits) (b : Byte),
    acc (build P) cur b = bitsteps P 8 (cur ^^^ b.setWidth W.bits)

/-- R100, R115: the byte step: the index is the low byte of the running value XOR the byte; the high byte of the result is
the high byte of the table entry. -/
def Obligations.ByteStepRule : Prop :=
  ∀ (W : Width) (T : Table W.bits) (cur : BitVec W.bits) (b : Byte),
    acc T cur b = tabRead T (cur.extractLsb' 0 8 ^^^ b) ^^^ (cur >>> 8) ∧
    (acc T cur b).extractLsb' (W.bits - 8) 8 = (tabRead T (cur.extractLsb' 0 8 ^^^ b)).extractLsb' (W.bits - 8) 8

/-- R101, R116: the loop applies the byte step once per input byte in ascending order; over no byte it is the running value;
over a concatenation it goes on from where it was. -/
def Obligations.FoldLoop : Prop :=
  ∀ (W : Width) (T : Table W.bits) (cur : BitVec W.bits) (X Y : List Byte) (b : Byte),
    fold T cur [] = cur ∧ fold T cur (X ++ [b]) = acc T (fold T cur X) b ∧
    fold T cur (X ++ Y) = fold T (fold T cur X) Y

/-! The commands. -/

/-- NEW.32 (R102) and NEW.64 (R117). -/
def Obligations.NewCreatesAccumulator : Prop :=
  NewRule view32 0x00000000#32 0xFF00FCFF#32 Instr.new32 ∧ NewRule view64 0x10000000#32 0xFF00FCFF#32 Instr.new64

/-- RESET.32 (R103) and RESET.64 (R118). -/
def Obligations.ResetLoadsSeed : Prop :=
  ResetRule view32 0x01000000#32 0xFF00FFFF#32 Instr.reset32 ∧ ResetRule view64 0x11000000#32 0xFF00FFFF#32 Instr.reset64

/-- UPDB.32 (R104) and UPDB.64 (R119). -/
def Obligations.UpdbAccumulatesByte : Prop :=
  UpdateByteRule view32 0x02000000#32 0xFF0000FF#32 Instr.updb32 ∧
  UpdateByteRule view64 0x12000000#32 0xFF0000FF#32 Instr.updb64

/-- UPD.32 (R105) and UPD.64 (R120). That over an empty buffer a SHARED context's use of its table fills an empty cache is
read from "possibly `ST_W`" and the pseudocode by inference (log 12). -/
def Obligations.UpdAccumulatesBuffer : Prop :=
  UpdateBufferRule view32 0x03000000#32 0xFF00FFFF#32 Instr.upd32 ∧
  UpdateBufferRule view64 0x13000000#32 0xFF00FFFF#32 Instr.upd64

/-- UPDS.32 (R106) and UPDS.64 (R121). That with `LEN = 0` a SHARED context's use of its table fills an empty cache is read from
"possibly `ST_W`" and the pseudocode by inference (log 12). -/
def Obligations.UpdsAccumulatesSlice : Prop :=
  UpdateSliceRule view32 0x04000000#32 0xFF00FFFF#32 Instr.upds32 ∧
  UpdateSliceRule view64 0x14000000#32 0xFF00FFFF#32 Instr.upds64

/-- VALUE.32 (R107) and VALUE.64 (R122). -/
def Obligations.ValueReadsRunningValue : Prop :=
  ReadRule view32 0x05000000#32 0xFF00FFFF#32 Instr.value32 (fun v => .value .w32 (v &&& 0xFFFFFFFF#32)) ∧
  ReadRule view64 0x15000000#32 0xFF00FFFF#32 Instr.value64 (fun v => .value .w64 v)

/-- FINAL.32 (R142) and FINAL.64 (R144). -/
def Obligations.FinalReadsChecksum : Prop :=
  ReadRule view32 0x06000000#32 0xFF00FFFF#32 Instr.final32 (fun v => .value .w32 (~~~v)) ∧
  ReadRule view64 0x16000000#32 0xFF00FFFF#32 Instr.final64 (fun v => .value .w64 v)

/-- DIGEST.32 (R143) and DIGEST.64 (R145): the bytes of the finalized value, most significant first. -/
def Obligations.DigestReadsBytes : Prop :=
  ReadRule view32 0x07000000#32 0xFF00FFFF#32 Instr.digest32 (fun v => .digest
    [(~~~v).extractLsb' 24 8, (~~~v).extractLsb' 16 8, (~~~v).extractLsb' 8 8, (~~~v).extractLsb' 0 8]) ∧
  ReadRule view64 0x17000000#32 0xFF00FFFF#32 Instr.digest64 (fun v => .digest
    [v.extractLsb' 56 8, v.extractLsb' 48 8, v.extractLsb' 40 8, v.extractLsb' 32 8,
     v.extractLsb' 24 8, v.extractLsb' 16 8, v.extractLsb' 8 8, v.extractLsb' 0 8])

/-- COMP1.32 (R131) and COMP1.64 (R134). -/
def Obligations.CompOneUsesDefaults : Prop :=
  ComputeRule view32 0x08000000#32 .comp1_32 (fun _ => 0xEDB88320#32) (fun _ => 0xFFFFFFFF#32) ∧
  ComputeRule view64 0x18000000#32 .comp1_64 (fun _ => 0xD800000000000000#64) (fun _ => 0#64)

/-- COMP2.32 (R132) and COMP2.64 (R135). -/
def Obligations.CompTwoUsesSeed : Prop :=
  ComputeRule view32 0x08000200#32 .comp2_32 (fun _ => 0xEDB88320#32) (fun s => view32.port s.ports.seed) ∧
  ComputeRule view64 0x18000200#32 .comp2_64 (fun _ => 0xD800000000000000#64) (fun s => view64.port s.ports.seed)

/-- COMP3.32 (R133) and COMP3.64 (R136). -/
def Obligations.CompThreeUsesPolynomialAndSeed : Prop :=
  ComputeRule view32 0x08000300#32 .comp3_32 (fun s => view32.port s.ports.poly) (fun s => view32.port s.ports.seed) ∧
  ComputeRule view64 0x18000300#32 .comp3_64 (fun s => view64.port s.ports.poly) (fun s => view64.port s.ports.seed)

/-- TBUILD.32 (R85) and TBUILD.64 (R86). -/
def Obligations.TbuildReturnsTable : Prop :=
  TableBuildRule view32 0x09000000#32 .tbuild32 ∧ TableBuildRule view64 0x19000000#32 .tbuild64

/-- TGET.32 (R94) and TGET.64 (R95). -/
def Obligations.TgetReturnsCachedTable : Prop :=
  TableGetRule view32 0x0A000000#32 .tget32 ∧ TableGetRule view64 0x1A000000#32 .tget64

/-- CFLUSH.32 (R96) and CFLUSH.64 (R97). -/
def Obligations.CflushEmptiesCache : Prop :=
  FlushRule view32 0x0B000000#32 .cflush32 ∧ FlushRule view64 0x1B000000#32 .cflush64

/-! Finalization. -/

/-- R140, R141: finalization is the complement at 32 bits and the identity at 64; the serializer puts the most significant
byte first. -/
def Obligations.FinalizeAndSerialize : Prop :=
  (∀ v : BitVec 32, fin Config.consts32 v = ~~~v) ∧ (∀ v : BitVec 64, fin Config.consts64 v = v) ∧
  (∀ v : BitVec 32, be v = [v.extractLsb' 24 8, v.extractLsb' 16 8, v.extractLsb' 8 8, v.extractLsb' 0 8]) ∧
  (∀ v : BitVec 64, be v = [v.extractLsb' 56 8, v.extractLsb' 48 8, v.extractLsb' 40 8, v.extractLsb' 32 8,
    v.extractLsb' 24 8, v.extractLsb' 16 8, v.extractLsb' 8 8, v.extractLsb' 0 8])

/-- R146, marked derived: finalizing twice gives the value back; the serializer is injective and the value is the base-256
number of its bytes; the reading commands change nothing but the list of responses; DIGEST answers the bytes of what FINAL
answers. -/
def Obligations.FinalizationLaws : Prop :=
  (∀ (W : Width) (v : BitVec W.bits), fin (Config.consts W) (fin (Config.consts W) v) = v) ∧
  (∀ (W : Width) (v v' : BitVec W.bits), be v = be v' → v = v') ∧
  (∀ (W : Width) (v : BitVec W.bits), v.toNat = (be v).foldl (fun n b => n * 256 + b.toNat) 0) ∧
  (∀ (i : Instr) (c : BitVec 8) (s t : State),
    (i = .value32 c ∨ i = .final32 c ∨ i = .digest32 c ∨ i = .value64 c ∨ i = .final64 c ∨ i = .digest64 c) →
    exec i s = .next t → t = { s with out := t.out }) ∧
  (∀ (c : BitVec 8) (s : State) (a : Acc 32), Holds view32 s c a →
    ∃ v, exec (.final32 c) s = .next (answered s (.ok (.value .w32 v))) ∧
      exec (.digest32 c) s = .next (answered s (.ok (.digest (be v))))) ∧
  (∀ (c : BitVec 8) (s : State) (a : Acc 64), Holds view64 s c a →
    ∃ v, exec (.final64 c) s = .next (answered s (.ok (.value .w64 v))) ∧
      exec (.digest64 c) s = .next (answered s (.ok (.digest (be v)))))

/-- R124, which rests on 90_conflicts C2 (log 9): at 64 bits the raw and the finalized value are equal: VALUE.64 and
FINAL.64 answer alike in every state. -/
def Obligations.ValueAndFinalAgreeAtSixtyFour : Prop :=
  ∀ (s : State) (c : BitVec 8), exec (.value64 c) s = exec (.final64 c) s

/-- The source's numeric examples S1, S2 and S3 (95_test_vectors section 1). -/
def Obligations.CanonicalVectors : Prop :=
  compute Config.consts32 0xEDB88320#32 0xFFFFFFFF#32 digits = 0xCBF43926#32 ∧
  compute Config.consts64 0xD800000000000000#64 0#64 [] = 0#64 ∧
  be 0x01020304#32 = [0x01#8, 0x02#8, 0x03#8, 0x04#8]

/-! Faults. -/

/-- R154 with the conditions of R150, R151, R153 and 30_encoding R65: an issued command is answered with a fault exactly when one
of the conditions holds, and it is the first in the order IllegalCommand, NotConfigured, BUFFER_ABSENT, SLICE_RANGE; and so for
a decoded command executed in any state whose banks have the context it names. -/
def Obligations.FaultPriority : Prop :=
  (∀ (s t : State) (c : Command) (rest : List Event) (f : CmdFault), s.pending = .issue c :: rest → step s = .next t →
    (t.out = .fault f :: s.out ↔ commandFault c s = some f)) ∧
  (∀ (i : Instr) (s t : State) (f : CmdFault), ctxOutOfRange i s = false → exec i s = .next t →
    (t.out = .fault f :: s.out ↔ faultOf i s = some f))

/-- The model's choice (log 14), for a state no step reaches: executing a command whose context the bank does not have gives the
answer the decoder gives its header word (30_encoding R65 step 4), before every other fault, and changes nothing. -/
def Obligations.ExecAnswersContextRange : Prop :=
  ∀ (i : Instr) (s : State), ctxOutOfRange i s = true →
    exec i s = .next (answered s (.fault (.illegalCommand .ctxRange)))

/-- R155 (log 15): a command answered with a fault writes no field of any context and neither shared table: the step has
taken the command from the list and given the response, and nothing else. -/
def Obligations.FaultsWriteNothing : Prop :=
  ∀ (s t : State) (c : Command) (rest : List Event) (f : CmdFault), s.pending = .issue c :: rest → step s = .next t →
    t.out = .fault f :: s.out → t = { s with pending := rest, ports := c.ports, pos := s.pos + 1, out := t.out }

/-- Every command, in every state, runs to exactly one response in one step, and touches nothing of the host's side: the
events to come, the ports, the position, the parameters (R157, R161, R180; R6). -/
def Obligations.EveryCommandAnswersOnce : Prop :=
  ∀ (i : Instr) (s : State), ∃ (r : Response) (t : State), exec i s = .next t ∧ t.out = r :: s.out ∧
    t.pending = s.pending ∧ t.ports = s.ports ∧ t.pos = s.pos ∧ t.lenw = s.lenw ∧
    t.u32.bank.length = s.u32.bank.length ∧ t.u64.bank.length = s.u64.bank.length

/-- R64, R150: the codes of a response. -/
def Obligations.ResponseCodes : Prop :=
  (∀ r : Result, (Response.ok r).status = 0#2 ∧ (Response.ok r).info = 0#2) ∧
  ((Response.fault (.invalidArgument .bufferAbsent)).status = 1#2 ∧
    (Response.fault (.invalidArgument .bufferAbsent)).info = 0#2) ∧
  ((Response.fault (.invalidArgument .sliceRange)).status = 1#2 ∧
    (Response.fault (.invalidArgument .sliceRange)).info = 1#2) ∧
  ((Response.fault (.illegalCommand .reservedBits)).status = 2#2 ∧
    (Response.fault (.illegalCommand .reservedBits)).info = 0#2) ∧
  ((Response.fault (.illegalCommand .reservedOp)).status = 2#2 ∧
    (Response.fault (.illegalCommand .reservedOp)).info = 1#2) ∧
  ((Response.fault (.illegalCommand .reservedFlags)).status = 2#2 ∧
    (Response.fault (.illegalCommand .reservedFlags)).info = 2#2) ∧
  ((Response.fault (.illegalCommand .ctxRange)).status = 2#2 ∧
    (Response.fault (.illegalCommand .ctxRange)).info = 3#2) ∧
  ((Response.fault .notConfigured).status = 3#2 ∧ (Response.fault .notConfigured).info = 0#2)

/-- R44: on a configured context and a present buffer, UPDS is answered OK exactly when `OFF + LEN <= BLEN` on natural
numbers, whatever the width of the ports; `OFF = BLEN` with `LEN = 0` is in range and changes no context; `OFF > BLEN` is
out of range even with `LEN = 0`. -/
def Obligations.SliceBoundCheck : Prop :=
  (∀ (s : State) (c : BitVec 8) (a : Acc 32) (B : List Byte), Holds view32 s c a → s.ports.buf = some B →
    ∃ t, exec (.upds32 c) s = .next t ∧
      (s.ports.off + s.ports.len ≤ B.length → t.out = .ok .nothing :: s.out) ∧
      (B.length < s.ports.off + s.ports.len →
        t.out = .fault (.invalidArgument .sliceRange) :: s.out ∧ t.u32.bank = s.u32.bank) ∧
      (s.ports.len = 0 → t.u32.bank = s.u32.bank)) ∧
  (∀ (s : State) (c : BitVec 8) (a : Acc 64) (B : List Byte), Holds view64 s c a → s.ports.buf = some B →
    ∃ t, exec (.upds64 c) s = .next t ∧
      (s.ports.off + s.ports.len ≤ B.length → t.out = .ok .nothing :: s.out) ∧
      (B.length < s.ports.off + s.ports.len →
        t.out = .fault (.invalidArgument .sliceRange) :: s.out ∧ t.u64.bank = s.u64.bank) ∧
      (s.ports.len = 0 → t.u64.bank = s.u64.bank))

/-- 93 U12 with R44 and R151: an issued UPDS of a present buffer, on a configured context, whose `OFF` or `LEN` is wider than
`LENW` bits is answered with `SLICE_RANGE` and changes nothing: it is no stop and is not wrapped. -/
def Obligations.WideOffsetsAreOutOfRange : Prop :=
  ∀ (W : Width) (s : State) (c : BitVec 8) (a : Acc W.bits) (B : List Byte) (o n : Nat) (rest : List Event),
    s.pending = .issue (Form.upds W c (some B) o n).command :: rest → (s.unit W).bank[c.toNat]? = some (some a) →
    B.length < 2 ^ s.lenw → 2 ^ s.lenw ≤ o ∨ 2 ^ s.lenw ≤ n →
    step s = .next { s with pending := rest, ports := (Form.upds W c (some B) o n).ports, pos := s.pos + 1,
                            out := .fault (.invalidArgument .sliceRange) :: s.out }

/-! Whole-machine rules. -/

/-- The invariant holds after power-on reset, for every legal choice of the parameters, and so at `State.reset`, whose
parameters are the model's choice (log 5). -/
def Obligations.ResetIsSound : Prop :=
  (∀ p : Params, p.Legal → (State.por p).Sound) ∧ State.reset.Sound

/-- R24, R26, R27 as an invariant: every step of the block, a command of any kind or a power-on reset, keeps every table the
built one of its polynomial and every parameter in its range. -/
def Obligations.StepKeepsTablesSound : Prop :=
  ∀ s t : State, s.Sound → step s = .next t → t.Sound

/-- R24, marked derived ("is always equal to `build_W(CW[c].POLY)`"), and R92: the table a context uses is `build_W(POLY)`,
whichever of the shared and the private table supplies it and whatever the cache holds. -/
def Obligations.ContextTableIsBuilt : Prop :=
  (∀ (s : State) (c : BitVec 8) (a : Acc 32), s.Sound → Holds view32 s c a →
    (tabOf Config.consts32 s.u32 a).1 = build a.poly) ∧
  (∀ (s : State) (c : BitVec 8) (a : Acc 64), s.Sound → Holds view64 s c a →
    (tabOf Config.consts64 s.u64 a).1 = build a.poly)

/-- R93, marked derived: the cache is functionally invisible: two sound states that differ only in what their shared tables
hold answer alike in a step and stay so. -/
def Obligations.CacheIsInvisible : Prop :=
  ∀ s t : State, s.Sound → t.Sound → s.hideCache = t.hideCache → sameButCache (step s) (step t)

/-- R93, marked derived: all a command can change in a shared table is to fill an empty one of its own unit or, if it is
CFLUSH, to empty it. -/
def Obligations.CacheChangesOnlyThus : Prop :=
  ∀ (i : Instr) (s t : State), exec i s = .next t →
    CacheChange Config.consts32 (i = .cflush32) s.u32 t.u32 ∧ CacheChange Config.consts64 (i = .cflush64) s.u64 t.u64 ∧
    (i.unit = .w32 → t.u64 = s.u64) ∧ (i.unit = .w64 → t.u32 = s.u32)

/-- R51, marked derived, the frame of every command: no context is written but the one the command names. -/
def Obligations.ContextsIndependent : Prop :=
  ∀ (i : Instr) (s t : State) (c : Nat), exec i s = .next t →
    (i.names .w32 c = false → t.u32.bank[c]? = s.u32.bank[c]?) ∧ (i.names .w64 c = false → t.u64.bank[c]? = s.u64.bank[c]?)

/-- R51, marked derived: what a command answers and what it leaves in the context it names are functions of its operands and
of that context alone: two sound states that agree on these give the same. -/
def Obligations.ResultDependsOnNamedContextAlone : Prop :=
  ∀ (i : Instr) (s t : State), s.Sound → t.Sound → s.ports = t.ports →
    (∀ c, i.names .w32 c = true → s.u32.bank[c]? = t.u32.bank[c]?) →
    (∀ c, i.names .w64 c = true → s.u64.bank[c]? = t.u64.bank[c]?) →
    ∃ (r : Response) (s' t' : State), exec i s = .next s' ∧ exec i t = .next t' ∧
      s'.out = r :: s.out ∧ t'.out = r :: t.out ∧
      (∀ c, i.names .w32 c = true → s'.u32.bank[c]? = t'.u32.bank[c]?) ∧
      (∀ c, i.names .w64 c = true → s'.u64.bank[c]? = t'.u64.bank[c]?)

/-- R21: until a NEW names it, a configured context stays configured with its polynomial, seed and table; and its running
value changes only by a command that names it and is one of NEW, RESET, UPDB, UPD, UPDS. -/
def Obligations.AccumulatorLifetime : Prop :=
  (∀ (i : Instr) (s t : State) (c : Nat) (a : Acc 32), exec i s = .next t → s.u32.bank[c]? = some (some a) →
    ∃ a', t.u32.bank[c]? = some (some a') ∧
      ((i.isNew && i.names .w32 c) = false → a'.poly = a.poly ∧ a'.seed = a.seed ∧ a'.tab = a.tab) ∧
      ((i.writesCur && i.names .w32 c) = false → a'.cur = a.cur)) ∧
  (∀ (i : Instr) (s t : State) (c : Nat) (a : Acc 64), exec i s = .next t → s.u64.bank[c]? = some (some a) →
    ∃ a', t.u64.bank[c]? = some (some a') ∧
      ((i.isNew && i.names .w64 c) = false → a'.poly = a.poly ∧ a'.seed = a.seed ∧ a'.tab = a.tab) ∧
      ((i.writesCur && i.names .w64 c) = false → a'.cur = a.cur))

/-! The laws of command sequences. -/

/-- R108 laws 1 and 4 and R123, marked derived: any number of UPD commands over any buffers, empty ones too, leaves the
running value of one fold over their concatenation. -/
def Obligations.SplittingLaw : Prop := SplittingFor view32 ∧ SplittingFor view64

/-- R108 laws 2 and 3 and R123, marked derived: UPD, UPDS and a run of UPDB agree. -/
def Obligations.UpdateFormsAgree : Prop := UpdateFormsFor view32 ∧ UpdateFormsFor view64

/-- R137 law 1 (R108 law 5), marked derived: the stateless commands answer what NEW, UPD, FINAL answer. -/
def Obligations.ComputeRoundTrip : Prop :=
  (RoundTripFor view32 (fun B => .comp1 .w32 (some B)) none none ∧
    (∀ S, RoundTripFor view32 (fun B => .comp2 .w32 S (some B)) none (some S)) ∧
    ∀ P S, RoundTripFor view32 (fun B => .comp3 .w32 P S (some B)) (some P) (some S)) ∧
  (RoundTripFor view64 (fun B => .comp1 .w64 (some B)) none none ∧
    (∀ S, RoundTripFor view64 (fun B => .comp2 .w64 S (some B)) none (some S)) ∧
    ∀ P S, RoundTripFor view64 (fun B => .comp3 .w64 P S (some B)) (some P) (some S))

/-- R137 law 3, marked derived: chaining across calls: the seed of the next call is the previous result with the
finalization mask XORed on. -/
def Obligations.ComputeChaining : Prop :=
  ∀ (W : Width) (P S : BitVec W.bits) (B1 B2 : List Byte),
    compute (Config.consts W) P S (B1 ++ B2) =
      compute (Config.consts W) P (compute (Config.consts W) P S B1 ^^^ (Config.consts W).xorOut) B2
end

