-- ==== Sys2Proof/Laws/Decode.lean ====
section
/-! SUPPORT. The fields of an encoded header word, one lemma a field, so that a proof about encodings unfolds no bits. -/

namespace Sys2Proof

variable (w : Bool) (op : BitVec 4) (ctx imm : BitVec 8) (p s : Bool)

/-- Every bit of a header word, from the fields it was made of (30_encoding R61). -/
theorem getLsbD_mkHeader (k : Nat) : (mkHeader w op ctx imm).getLsbD k =
    if k < 8 then false else if k < 16 then imm.getLsbD (k - 8) else if k < 24 then ctx.getLsbD (k - 16)
    else if k < 28 then op.getLsbD (k - 24) else if k < 29 then w else false := by
  unfold mkHeader
  rw [BitVec.getLsbD_append (x := 0#3 ++ BitVec.ofBool w ++ op ++ ctx ++ imm),
    BitVec.getLsbD_append (x := 0#3 ++ BitVec.ofBool w ++ op ++ ctx),
    BitVec.getLsbD_append (x := 0#3 ++ BitVec.ofBool w ++ op),
    BitVec.getLsbD_append (x := 0#3 ++ BitVec.ofBool w), BitVec.getLsbD_append (x := 0#3)]
  by_cases h : k - 8 - 8 - 8 - 4 < 1 <;> simp [h] <;> grind

@[simp] theorem rsv0_mkHeader : Header.rsv0 (mkHeader w op ctx imm) = 0#3 := by
  ext i hi; simp [Header.rsv0, mkHeader]; grind
@[simp] theorem rsv1_mkHeader : Header.rsv1 (mkHeader w op ctx imm) = 0#8 := by
  ext i hi; simp [Header.rsv1, mkHeader]; grind
@[simp] theorem w_mkHeader : Header.w (mkHeader w op ctx imm) = w := by
  simp [Header.w, -BitVec.getLsbD_eq_getElem, getLsbD_mkHeader]
@[simp] theorem op_mkHeader : Header.op (mkHeader w op ctx imm) = op := by
  ext i hi; simp [Header.op, mkHeader]; grind
@[simp] theorem ctx_mkHeader : Header.ctx (mkHeader w op ctx imm) = ctx := by
  ext i hi; simp [Header.ctx, mkHeader]; grind
@[simp] theorem imm8_mkHeader : Header.imm8 (mkHeader w op ctx imm) = imm := by
  ext i hi; simp [Header.imm8, mkHeader]; grind

@[simp] theorem flagP_mkFlags : Header.flagP (mkFlags p s) = p := by cases p <;> cases s <;> decide
@[simp] theorem flagS_mkFlags : Header.flagS (mkFlags p s) = s := by cases p <;> cases s <;> decide
@[simp] theorem flagsRest_mkFlags : Header.flagsRest (mkFlags p s) = 0#6 := by cases p <;> cases s <;> decide

end Sys2Proof
end

