-- ==== Sys2Proof/Laws/State.lean ====
section
/-! SUPPORT. One lemma per field per update of the state, each true by unfolding the update once, so that no later proof
does. -/

namespace Sys2Proof.Machine

variable (s : State) (r : Response) (f : CmdFault) (c : Command) (rest : List Event) (o : Option Command)

/-! `State.respond` and `State.raise`. -/

@[simp] theorem respond_u32 : (s.respond r).u32 = s.u32 := rfl
@[simp] theorem respond_u64 : (s.respond r).u64 = s.u64 := rfl
@[simp] theorem respond_lenw : (s.respond r).lenw = s.lenw := rfl
@[simp] theorem respond_pending : (s.respond r).pending = s.pending := rfl
@[simp] theorem respond_ports : (s.respond r).ports = s.ports := rfl
@[simp] theorem respond_pos : (s.respond r).pos = s.pos := rfl
@[simp] theorem respond_out : (s.respond r).out = r :: s.out := rfl
theorem raise_eq : s.raise f = s.respond (.fault f) := rfl
@[simp] theorem raise_u32 : (s.raise f).u32 = s.u32 := rfl
@[simp] theorem raise_u64 : (s.raise f).u64 = s.u64 := rfl
@[simp] theorem raise_lenw : (s.raise f).lenw = s.lenw := rfl
@[simp] theorem raise_pending : (s.raise f).pending = s.pending := rfl
@[simp] theorem raise_ports : (s.raise f).ports = s.ports := rfl
@[simp] theorem raise_pos : (s.raise f).pos = s.pos := rfl
@[simp] theorem raise_out : (s.raise f).out = .fault f :: s.out := rfl

/-! `State.unit` and `State.setUnit`. -/

@[simp] theorem unit_w32 : s.unit .w32 = s.u32 := rfl
@[simp] theorem unit_w64 : s.unit .w64 = s.u64 := rfl
theorem setUnit_w32 (u : CrcUnit 32) : s.setUnit .w32 u = { s with u32 := u } := rfl
theorem setUnit_w64 (u : CrcUnit 64) : s.setUnit .w64 u = { s with u64 := u } := rfl
@[simp] theorem setUnit_w32_u32 (u : CrcUnit 32) : (s.setUnit .w32 u).u32 = u := rfl
@[simp] theorem setUnit_w32_u64 (u : CrcUnit 32) : (s.setUnit .w32 u).u64 = s.u64 := rfl
@[simp] theorem setUnit_w64_u32 (u : CrcUnit 64) : (s.setUnit .w64 u).u32 = s.u32 := rfl
@[simp] theorem setUnit_w64_u64 (u : CrcUnit 64) : (s.setUnit .w64 u).u64 = u := rfl
@[simp] theorem setUnit_lenw (W : Width) (u : CrcUnit W.bits) : (s.setUnit W u).lenw = s.lenw := by cases W <;> rfl
@[simp] theorem setUnit_pending (W : Width) (u : CrcUnit W.bits) : (s.setUnit W u).pending = s.pending := by
  cases W <;> rfl
@[simp] theorem setUnit_ports (W : Width) (u : CrcUnit W.bits) : (s.setUnit W u).ports = s.ports := by cases W <;> rfl
@[simp] theorem setUnit_pos (W : Width) (u : CrcUnit W.bits) : (s.setUnit W u).pos = s.pos := by cases W <;> rfl
@[simp] theorem setUnit_out (W : Width) (u : CrcUnit W.bits) : (s.setUnit W u).out = s.out := by cases W <;> rfl
@[simp] theorem unit_setUnit (W : Width) (u : CrcUnit W.bits) : (s.setUnit W u).unit W = u := by cases W <;> rfl
@[simp] theorem setUnit_unit (W : Width) : s.setUnit W (s.unit W) = s := by cases W <;> rfl

/-! `State.take` and `State.powerOn`. -/

@[simp] theorem take_u32 : (s.take c rest).u32 = s.u32 := rfl
@[simp] theorem take_u64 : (s.take c rest).u64 = s.u64 := rfl
@[simp] theorem take_lenw : (s.take c rest).lenw = s.lenw := rfl
@[simp] theorem take_pending : (s.take c rest).pending = rest := rfl
@[simp] theorem take_ports : (s.take c rest).ports = c.ports := rfl
@[simp] theorem take_pos : (s.take c rest).pos = s.pos + 1 := rfl
@[simp] theorem take_out : (s.take c rest).out = s.out := rfl
@[simp] theorem powerOn_u32 : (s.powerOn o rest).u32 = CrcUnit.por 32 s.u32.bank.length := rfl
@[simp] theorem powerOn_u64 : (s.powerOn o rest).u64 = CrcUnit.por 64 s.u64.bank.length := rfl
@[simp] theorem powerOn_lenw : (s.powerOn o rest).lenw = s.lenw := rfl
@[simp] theorem powerOn_pending : (s.powerOn o rest).pending = rest := rfl
@[simp] theorem powerOn_ports : (s.powerOn o rest).ports = Ports.idle := rfl
@[simp] theorem powerOn_out : (s.powerOn o rest).out = s.out := rfl

/-! The updates of a unit. -/

variable {w : Nat} (K : UnitConsts w) (u : CrcUnit w) (a : Acc w) (n : Nat)

@[simp] theorem setCtx_bank (b : BitVec 8) : (u.setCtx b a).bank = u.bank.set b.toNat (some a) := rfl
@[simp] theorem setCtx_st (b : BitVec 8) : (u.setCtx b a).st = u.st := rfl
@[simp] theorem populate_bank : (u.populate K).bank = u.bank := rfl
@[simp] theorem populate_st : (u.populate K).st = some (build K.canonPoly) := rfl
@[simp] theorem flush_bank : u.flush.bank = u.bank := rfl
@[simp] theorem flush_st : u.flush.st = none := rfl
@[simp] theorem por_bank : (CrcUnit.por w n).bank = List.replicate n none := rfl
@[simp] theorem por_st : (CrcUnit.por w n).st = none := rfl

end Sys2Proof.Machine
end

