-- ==== Sys2Proof/Laws/Ops.lean ====
section
/-! SUPPORT. For each shared operation, what it can do, said once: a proof about a command cites these and unfolds none of
them. -/

namespace Sys2Proof.Machine

variable {W : Width} {c : BitVec 8} {s t : State} {go : Acc W.bits → Answer} {a : Acc W.bits}

/-! `withAcc`: a command on a context. -/

theorem withAcc_out_of_range (h : (s.unit W).bank[c.toNat]? = none) :
    withAcc W c s go = .next (s.raise (.illegalCommand .ctxRange)) := by
  simp [withAcc, h]

theorem withAcc_unconfigured (h : (s.unit W).bank[c.toNat]? = some none) :
    withAcc W c s go = .next (s.raise .notConfigured) := by
  simp [withAcc, h]

theorem withAcc_configured (h : (s.unit W).bank[c.toNat]? = some (some a)) : withAcc W c s go = go a := by
  simp [withAcc, h]

/-- The three ways a command on a context can go. -/
theorem withAcc_cases (W : Width) (c : BitVec 8) (s : State) (go : Acc W.bits → Answer) :
    ((s.unit W).bank[c.toNat]? = none ∧ withAcc W c s go = .next (s.raise (.illegalCommand .ctxRange))) ∨
    ((s.unit W).bank[c.toNat]? = some none ∧ withAcc W c s go = .next (s.raise .notConfigured)) ∨
    (∃ a, (s.unit W).bank[c.toNat]? = some (some a) ∧ withAcc W c s go = go a) := by
  rcases h : (s.unit W).bank[c.toNat]? with _ | _ | a
  · exact .inl ⟨rfl, withAcc_out_of_range h⟩
  · exact .inr (.inl ⟨rfl, withAcc_unconfigured h⟩)
  · exact .inr (.inr ⟨a, rfl, withAcc_configured h⟩)

/-! `withBuffer` and `withSlice`: the checks on the buffer ports. -/

theorem withBuffer_absent {go : List Byte → Answer} (h : s.ports.buf = none) :
    withBuffer s go = .next (s.raise (.invalidArgument .bufferAbsent)) := by
  simp [withBuffer, h]

theorem withBuffer_present {go : List Byte → Answer} {B : List Byte} (h : s.ports.buf = some B) :
    withBuffer s go = go B := by
  simp [withBuffer, h]

theorem withSlice_in_range {go : List Byte → Answer} {B : List Byte} (h : s.ports.off + s.ports.len ≤ B.length) :
    withSlice s B go = go (slice B s.ports.off s.ports.len) := by
  simp [withSlice, sliceInRange, h]

theorem withSlice_out_of_range {go : List Byte → Answer} {B : List Byte}
    (h : B.length < s.ports.off + s.ports.len) :
    withSlice s B go = .next (s.raise (.invalidArgument .sliceRange)) := by
  have : ¬ s.ports.off + s.ports.len ≤ B.length := by omega
  simp [withSlice, sliceInRange, this]

/-! The tables. -/

variable {w : Nat} {K : UnitConsts w} {u : CrcUnit w} {P : BitVec w}

/-- An entry of a built table (R81), without its bounds proof. -/
@[simp] theorem tabRead_build (P : BitVec w) (i : BitVec 8) :
    tabRead (build P) i = bitsteps P Config.nstep (BitVec.ofNat w i.toNat) := by
  simp [tabRead, build]

/-- The three ways a lookup through the cache can go. -/
theorem getOrBuild_cases (K : UnitConsts w) (u : CrcUnit w) (P : BitVec w) :
    (P ≠ K.canonPoly ∧ getOrBuild K u P = (build P, u)) ∨
    (P = K.canonPoly ∧ ∃ T, u.st = some T ∧ getOrBuild K u P = (T, u)) ∨
    (P = K.canonPoly ∧ u.st = none ∧ getOrBuild K u P = (build K.canonPoly, u.populate K)) := by
  by_cases h : P = K.canonPoly
  · rcases hs : u.st with _ | T
    · exact .inr (.inr ⟨h, rfl, by simp [getOrBuild, h, hs]⟩)
    · exact .inr (.inl ⟨h, T, rfl, by simp [getOrBuild, h, hs]⟩)
  · exact .inl ⟨h, by simp [getOrBuild, h]⟩

/-- On a sound unit a lookup answers the built table and leaves the cache as `stAfter` says, and the bank alone. -/
theorem getOrBuild_of_sound (h : ∀ T, u.st = some T → T = build K.canonPoly) :
    getOrBuild K u P = (build P, { u with st := stAfter K u P }) := by
  rcases getOrBuild_cases K u P with ⟨hP, e⟩ | ⟨hP, T, hT, e⟩ | ⟨hP, hn, e⟩
  · rw [e]; simp [stAfter, hP]
  · rw [e, h T hT]; subst hP; simp only [stAfter, if_true, ← h T hT, ← hT]
  · rw [e]; subst hP; simp [stAfter, CrcUnit.populate]

/-- The bank is never touched by a lookup. -/
@[simp] theorem getOrBuild_bank : (getOrBuild K u P).2.bank = u.bank := by
  rcases getOrBuild_cases K u P with ⟨_, e⟩ | ⟨_, _, _, e⟩ | ⟨_, _, e⟩ <;> simp [e]

@[simp] theorem tabOf_bank {a : Acc w} : (tabOf K u a).2.bank = u.bank := by
  unfold tabOf; split
  · exact getOrBuild_bank
  · rfl

end Sys2Proof.Machine
end

