-- ==== Sys2Proof/Laws/PerInstr.lean ====
section
/-! SUPPORT. Statements made per instruction. Family MatchMask: the header word of every command lies in the command's own
row of the opcode table, `(h & mask) == match` (30_encoding R67). -/

namespace Sys2Proof.Laws.MatchMask

/-- The encoded command matches its row. -/
def Statement (i : Instr) : Prop := encode i &&& i.maskWord = i.matchWord

theorem new32 (ctx : BitVec 8) (p s : Bool) : Statement (.new32 ctx p s) := by
  revert ctx p s; unfold Statement; decide +kernel
theorem reset32 (ctx : BitVec 8) : Statement (.reset32 ctx) := by
  revert ctx; unfold Statement; decide +kernel
theorem updb32 (ctx imm : BitVec 8) : Statement (.updb32 ctx imm) := by
  unfold Statement encode Instr.maskWord Instr.matchWord
  ext k hk
  simp only [← BitVec.getLsbD_eq_getElem, BitVec.getLsbD_and, getLsbD_mkHeader]
  interval_cases k <;> simp
theorem upd32 (ctx : BitVec 8) : Statement (.upd32 ctx) := by
  revert ctx; unfold Statement; decide +kernel
theorem upds32 (ctx : BitVec 8) : Statement (.upds32 ctx) := by
  revert ctx; unfold Statement; decide +kernel
theorem value32 (ctx : BitVec 8) : Statement (.value32 ctx) := by
  revert ctx; unfold Statement; decide +kernel
theorem final32 (ctx : BitVec 8) : Statement (.final32 ctx) := by
  revert ctx; unfold Statement; decide +kernel
theorem digest32 (ctx : BitVec 8) : Statement (.digest32 ctx) := by
  revert ctx; unfold Statement; decide +kernel
theorem comp1_32 : Statement .comp1_32 := by
  unfold Statement; decide
theorem comp2_32 : Statement .comp2_32 := by
  unfold Statement; decide
theorem comp3_32 : Statement .comp3_32 := by
  unfold Statement; decide
theorem tbuild32 : Statement .tbuild32 := by
  unfold Statement; decide
theorem tget32 : Statement .tget32 := by
  unfold Statement; decide
theorem cflush32 : Statement .cflush32 := by
  unfold Statement; decide
theorem new64 (ctx : BitVec 8) (p s : Bool) : Statement (.new64 ctx p s) := by
  revert ctx p s; unfold Statement; decide +kernel
theorem reset64 (ctx : BitVec 8) : Statement (.reset64 ctx) := by
  revert ctx; unfold Statement; decide +kernel
theorem updb64 (ctx imm : BitVec 8) : Statement (.updb64 ctx imm) := by
  unfold Statement encode Instr.maskWord Instr.matchWord
  ext k hk
  simp only [← BitVec.getLsbD_eq_getElem, BitVec.getLsbD_and, getLsbD_mkHeader]
  interval_cases k <;> simp
theorem upd64 (ctx : BitVec 8) : Statement (.upd64 ctx) := by
  revert ctx; unfold Statement; decide +kernel
theorem upds64 (ctx : BitVec 8) : Statement (.upds64 ctx) := by
  revert ctx; unfold Statement; decide +kernel
theorem value64 (ctx : BitVec 8) : Statement (.value64 ctx) := by
  revert ctx; unfold Statement; decide +kernel
theorem final64 (ctx : BitVec 8) : Statement (.final64 ctx) := by
  revert ctx; unfold Statement; decide +kernel
theorem digest64 (ctx : BitVec 8) : Statement (.digest64 ctx) := by
  revert ctx; unfold Statement; decide +kernel
theorem comp1_64 : Statement .comp1_64 := by
  unfold Statement; decide
theorem comp2_64 : Statement .comp2_64 := by
  unfold Statement; decide
theorem comp3_64 : Statement .comp3_64 := by
  unfold Statement; decide
theorem tbuild64 : Statement .tbuild64 := by
  unfold Statement; decide
theorem tget64 : Statement .tget64 := by
  unfold Statement; decide
theorem cflush64 : Statement .cflush64 := by
  unfold Statement; decide

end Sys2Proof.Laws.MatchMask
end

