-- ==== Sys2Proof/Laws/Step.lean ====
section
/-! SUPPORT. What a step can do, said once, and how a run of steps is taken apart. -/

namespace Sys2Proof.Machine

variable {s t : State} {n : Nat}

/-- The five ways a step can go. -/
theorem step_cases (s : State) :
    (s.pending = [] ∧ step s = .next s) ∨
    (∃ o rest, s.pending = .powerOn o :: rest ∧ step s = .next (s.powerOn o rest)) ∨
    (∃ c rest e, s.pending = .issue c :: rest ∧ s.decodeHeader c.header = .error e ∧
      step s = .next ((s.take c rest).raise (.illegalCommand e))) ∨
    (∃ c rest i, s.pending = .issue c :: rest ∧ s.decodeHeader c.header = .ok i ∧
      beyondPorts i (s.take c rest) = true ∧ step s = .fault .unpresentable) ∨
    (∃ c rest i, s.pending = .issue c :: rest ∧ s.decodeHeader c.header = .ok i ∧
      beyondPorts i (s.take c rest) = false ∧ step s = exec i (s.take c rest)) := by
  rcases hp : s.pending with _ | ⟨c | o, rest⟩
  · exact .inl ⟨rfl, by simp [step, hp]⟩
  · rcases hd : s.decodeHeader c.header with e | i
    · exact .inr (.inr (.inl ⟨c, rest, e, rfl, hd, by simp [step, hp, hd]⟩))
    · cases hb : beyondPorts i (s.take c rest)
      · exact .inr (.inr (.inr (.inr ⟨c, rest, i, rfl, hd, hb, by simp [step, hp, hd, hb]⟩)))
      · exact .inr (.inr (.inr (.inl ⟨c, rest, i, rfl, hd, hb, by simp [step, hp, hd, hb]⟩)))
  · exact .inr (.inl ⟨o, rest, rfl, by simp [step, hp]⟩)

/-- A command that takes no buffer is never beyond the ports, whatever they carry (30_encoding R60). -/
theorem beyondPorts_of_takes_none {i : Instr} (h : i.takesBuffer = false) : beyondPorts i s = false := by
  simp [beyondPorts, h]

/-- A command with no buffer, or a buffer this block can be given, is never beyond the ports (00_scope R9). -/
theorem beyondPorts_of_fits {i : Instr} (h : ∀ B, s.ports.buf = some B → B.length < 2 ^ s.lenw) :
    beyondPorts i s = false := by
  have : s.bufferTooLong = false := by
    unfold State.bufferTooLong
    split
    · rfl
    · rename_i B hB; simpa using h B hB
  simp [beyondPorts, this]

/-- One more step of a run, when it answers a next state. -/
theorem run_succ (h : step s = .next t) : core.run (n + 1) s = core.run n t := by
  have h' : core.step s = .next t := h
  simp [Host.Core.run, h']

theorem run_zero : core.run 0 s = .next s := rfl

end Sys2Proof.Machine
end

