-- ==== Sys2Proof/Machine/AssemblyText.lean ====
section
/-! DEFINITION. The text of an assembler line (30_encoding R71, R72), read to the form it denotes. The syntax belongs to the
spec's test vectors and to no hardware ("otherwise of no weight"); it is read strictly as the grammar writes it (log 17). -/

namespace Sys2Proof.Machine

/-! Cutting a line. -/

/-- A blank between the tokens of a line (log 17). -/
def isBlank (c : Char) : Bool := c.toNat == 32 || c.toNat == 9

/-- The text without the blanks around it. -/
def trimText (t : List Char) : List Char := ((t.dropWhile isBlank).reverse.dropWhile isBlank).reverse

/-- The line without its comment and its expectation: it ends before the first `;` or `->` outside quotes (R71). The flag says
whether the scan is inside quotes. -/
def cutLine : Bool → List Char → List Char
  | _, [] => []
  | true, c :: t => c :: cutLine (c != '"') t
  | false, '-' :: '>' :: _ => []
  | false, c :: t => if c == ';' then [] else c :: cutLine (c == '"') t

/-- The operands of a line, split at the commas outside quotes (R71). -/
def splitOperands : Bool → List Char → List (List Char)
  | _, [] => [[]]
  | inQuotes, c :: t =>
    if c == ',' && !inQuotes then [] :: splitOperands false t
    else
      match splitOperands (if c == '"' then !inQuotes else inQuotes) t with
      | [] => [[c]]
      | w :: ws => (c :: w) :: ws

/-! Numbers. -/

/-- A decimal digit. -/
def decimalDigit (c : Char) : Option Nat :=
  if 48 ≤ c.toNat ∧ c.toNat ≤ 57 then some (c.toNat - 48) else none

/-- A hexadecimal digit, in either case. -/
def hexDigit (c : Char) : Option Nat :=
  if 48 ≤ c.toNat ∧ c.toNat ≤ 57 then some (c.toNat - 48)
  else if 65 ≤ c.toNat ∧ c.toNat ≤ 70 then some (c.toNat - 55)
  else if 97 ≤ c.toNat ∧ c.toNat ≤ 102 then some (c.toNat - 87)
  else none

/-- The number of a digit string, most significant first, on top of `n`. -/
def readDigits (digit : Char → Option Nat) (base : Nat) : Nat → List Char → Option Nat
  | n, [] => some n
  | n, c :: t =>
    match digit c with
    | none => none
    | some d => readDigits digit base (n * base + d) t

/-- `value := "0x" hex digits`, at least one digit (R71). -/
def readNumber (t : List Char) : Option Nat :=
  match t with
  | '0' :: 'x' :: d :: t => readDigits hexDigit 16 0 (d :: t)
  | _ => none

/-- A value on `w` bits; a number that does not fit is no such value. -/
def readValueText (w : Nat) (t : List Char) : Option (BitVec w) :=
  match readNumber t with
  | some n => if n < 2 ^ w then some (BitVec.ofNat w n) else none
  | none => none

/-- `context := "c" decimal`, c0 to c255 (R71). -/
def readContext (t : List Char) : Option (BitVec 8) :=
  match t with
  | 'c' :: d :: t =>
    match readDigits decimalDigit 10 0 (d :: t) with
    | some n => if n < 256 then some (BitVec.ofNat 8 n) else none
    | none => none
  | _ => none

/-! Buffers. -/

/-- The opening brace, code 123; the closing one is 125. -/
def isOpenBrace (c : Char) : Bool := c.toNat == 123

/-- The bytes between quotes up to the closing one, which ends the operand: each character's ASCII code (R71). -/
def readQuoted : List Char → Option (List Byte)
  | [] => none
  | [c] => if c == '"' then some [] else none
  | c :: t =>
    if c == '"' || 127 < c.toNat then none
    else
      match readQuoted t with
      | some bs => some (BitVec.ofNat 8 c.toNat :: bs)
      | none => none

/-- The bytes listed between braces, two hexadecimal digits each, up to the closing brace, which ends the operand (R71). -/
def readListed : List Char → Option (List Byte)
  | [] => none
  | [c] => if c.toNat == 125 then some [] else none
  | c :: d :: t =>
    if isBlank c then readListed (d :: t)
    else
      match hexDigit c, hexDigit d, readListed t with
      | some h, some l, some bs => some (BitVec.ofNat 8 (h * 16 + l) :: bs)
      | _, _, _ => none

/-- `buffer`: `null`, the characters between quotes, or the bytes between braces (R71). -/
def readBufferText (t : List Char) : Option (Option (List Byte)) :=
  match t with
  | ['n', 'u', 'l', 'l'] => some none
  | c :: t =>
    if c == '"' then (readQuoted t).map some
    else if isOpenBrace c then (readListed t).map some
    else none
  | [] => none

/-! Mnemonics. -/

/-- The words a mnemonic can start with (R71), and those of the pseudo-instructions (R72). -/
inductive Keyword where
  | new | reset | updb | upd | upds | value | final | digest | comp1 | comp2 | comp3 | tbuild | tget | cflush
  | compute | newIso
  deriving DecidableEq, Repr

/-- The keyword a word is. -/
def readKeyword (t : List Char) : Option Keyword :=
  match t with
  | ['N', 'E', 'W'] => some .new
  | ['R', 'E', 'S', 'E', 'T'] => some .reset
  | ['U', 'P', 'D', 'B'] => some .updb
  | ['U', 'P', 'D'] => some .upd
  | ['U', 'P', 'D', 'S'] => some .upds
  | ['V', 'A', 'L', 'U', 'E'] => some .value
  | ['F', 'I', 'N', 'A', 'L'] => some .final
  | ['D', 'I', 'G', 'E', 'S', 'T'] => some .digest
  | ['C', 'O', 'M', 'P', '1'] => some .comp1
  | ['C', 'O', 'M', 'P', '2'] => some .comp2
  | ['C', 'O', 'M', 'P', '3'] => some .comp3
  | ['T', 'B', 'U', 'I', 'L', 'D'] => some .tbuild
  | ['T', 'G', 'E', 'T'] => some .tget
  | ['C', 'F', 'L', 'U', 'S', 'H'] => some .cflush
  | ['C', 'O', 'M', 'P', 'U', 'T', 'E'] => some .compute
  | ['N', 'E', 'W', 'I', 'S', 'O'] => some .newIso
  | _ => none

/-- The width suffix of a mnemonic, with its dot. -/
def readSuffix (t : List Char) : Option Width :=
  match t with
  | ['.', '3', '2'] => some .w32
  | ['.', '6', '4'] => some .w64
  | _ => none

/-- The value of an operand `name=V`. -/
def readNamed (w : Nat) (name t : List Char) : Option (BitVec w) :=
  if name.isPrefixOf t then readValueText w (t.drop name.length) else none

/-- The prefix `poly=`. -/
def polyName : List Char := ['p', 'o', 'l', 'y', '=']
/-- The prefix `seed=`. -/
def seedName : List Char := ['s', 'e', 'e', 'd', '=']

/-! Lines. -/

/-- A NEW from its operands: the four forms of R71. -/
def readNew (W : Width) (ops : List (List Char)) : Option Form :=
  match ops with
  | [c] => do return .new W (← readContext c) none none
  | [c, v] =>
    match readNamed W.bits polyName v with
    | some P => do return .new W (← readContext c) (some P) none
    | none => do return .new W (← readContext c) none (some (← readNamed W.bits seedName v))
  | [c, v, v'] => do
    return .new W (← readContext c) (some (← readNamed W.bits polyName v)) (some (← readNamed W.bits seedName v'))
  | _ => none

/-- A form from its keyword, its width and its operands (R71, R72). -/
def readForm (k : Keyword) (W : Width) (ops : List (List Char)) : Option Form :=
  match k, ops with
  | .new, ops => readNew W ops
  | .reset, [c] => do return .reset W (← readContext c)
  | .updb, [c, v] => do return .updb W (← readContext c) (← readValueText 8 v)
  | .upd, [c, b] => do return .upd W (← readContext c) (← readBufferText b)
  | .upds, [c, b, o, n] => do
    return .upds W (← readContext c) (← readBufferText b) (← readNumber o) (← readNumber n)
  | .value, [c] => do return .value W (← readContext c)
  | .final, [c] => do return .final W (← readContext c)
  | .digest, [c] => do return .digest W (← readContext c)
  | .comp1, [b] => do return .comp1 W (← readBufferText b)
  | .comp2, [v, b] => do return .comp2 W (← readValueText W.bits v) (← readBufferText b)
  | .comp3, [p, v, b] => do
    return .comp3 W (← readValueText W.bits p) (← readValueText W.bits v) (← readBufferText b)
  | .tbuild, [v] => do return .tbuild W (← readValueText W.bits v)
  | .tget, [v] => do return .tget W (← readValueText W.bits v)
  | .cflush, [] => some (.cflush W)
  | .compute, [b] => do return (Pseudo.compute1 W (← readBufferText b)).expand
  | .compute, [v, b] => do return (Pseudo.compute2 W (← readValueText W.bits v) (← readBufferText b)).expand
  | .compute, [p, v, b] => do
    return (Pseudo.compute3 W (← readValueText W.bits p) (← readValueText W.bits v) (← readBufferText b)).expand
  | .newIso, [c] =>
    match W with
    | .w64 => do return (Pseudo.newIso (← readContext c) none).expand
    | .w32 => none
  | .newIso, [c, v] =>
    match W with
    | .w64 => do return (Pseudo.newIso (← readContext c) (some (← readNamed 64 seedName v))).expand
    | .w32 => none
  | _, _ => none

/-- The form an assembler line denotes, none where it is no line of the grammar (R71). -/
def readLine (line : List Char) : Option Form :=
  let text := trimText (cutLine false line)
  let mnemonic := text.takeWhile fun c => !isBlank c
  let operands := trimText (text.dropWhile fun c => !isBlank c)
  do
    let k ← readKeyword (mnemonic.takeWhile fun c => c != '.')
    let W ← readSuffix (mnemonic.dropWhile fun c => c != '.')
    readForm k W (if operands.isEmpty then [] else (splitOperands false operands).map trimText)

end Sys2Proof.Machine
end

