-- ==== Sys2Proof/Tests/Slice0.lean ====
section
/-! SUPPORT. The model's own tests. Expected values are those of spec/95_test_vectors.md, named beside each test; none was taken
from the model. Then, for every obligation with hypotheses, a witness that meets them. -/

set_option Elab.async false

namespace Sys2Proof.Tests

open Sys2Proof.Machine Sys2Proof.Claims

/-! Small states. -/

/-- A 32-bit accumulator on the canonical polynomial (V9 line 1). -/
def acc32 : Acc 32 := { poly := 0xEDB88320#32, seed := 0xFFFFFFFF#32, cur := 0xFFFFFFFF#32, tab := .shared }

/-- A 32-bit accumulator with a table of its own (P4 line 2, `poly=82F63B78`). -/
def own32 : Acc 32 :=
  { poly := 0x82F63B78#32, seed := 0xFFFFFFFF#32, cur := 0xFFFFFFFF#32, tab := .owned (build 0x82F63B78#32) }

/-- A 64-bit accumulator on the canonical polynomial (P2 line 1). -/
def acc64 : Acc 64 := { poly := 0xD800000000000000#64, seed := 0#64, cur := 0#64, tab := .shared }

/-- A block with three 32-bit and two 64-bit contexts: context 0 of each unit is on the canonical polynomial, context 1 of the
32-bit unit has its own table, the last context of each unit holds nothing; both caches are empty. -/
def block : State :=
  { State.por { nctx32 := 3, nctx64 := 2, lenw := 32 } with
    u32 := { bank := [some acc32, some own32, none], st := none }
    u64 := { bank := [some acc64, none], st := none } }

/-- The state with these operands on the ports. -/
def State.on (s : State) (p : Ports) : State := { s with ports := p }

/-- A buffer on the ports. -/
def buf (B : List Byte) : Ports := { Ports.idle with buf := some B }

/-- What context `c` of the 32-bit unit has in `CUR` after an answer. -/
def cur32 (a : Answer) (c : Nat) : Option (BitVec 32) :=
  match a with
  | .next s => (s.u32.bank[c]?.getD none).map Acc.cur
  | .fault _ => none
  | .refused _ => none

/-- What context `c` of the 64-bit unit has in `CUR` after an answer. -/
def cur64 (a : Answer) (c : Nat) : Option (BitVec 64) :=
  match a with
  | .next s => (s.u64.bank[c]?.getD none).map Acc.cur
  | .fault _ => none
  | .refused _ => none

/-- The latest response after an answer. -/
def resp (a : Answer) : Option Response :=
  match a with
  | .next s => s.out.head?
  | .fault _ => none
  | .refused _ => none

/-- The fault a stopped answer gives. -/
def stop (a : Answer) : Option Fault :=
  match a with
  | .next _ => none
  | .fault f => some f
  | .refused _ => none

/-- Entry `i` of the 32-bit table answered. -/
def entry32 (a : Answer) (i : BitVec 8) : Option (BitVec 32) :=
  match resp a with
  | some (.ok (.table .w32 t)) => some (tabRead t i)
  | _ => none

/-- Entry `i` of the 64-bit table answered. -/
def entry64 (a : Answer) (i : BitVec 8) : Option (BitVec 64) :=
  match resp a with
  | some (.ok (.table .w64 t)) => some (tabRead t i)
  | _ => none

/-- The `VALID` bits of both units after an answer. -/
def valids (a : Answer) : Option (Bool × Bool) :=
  match a with
  | .next s => some (s.u32.valid, s.u64.valid)
  | .fault _ => none
  | .refused _ => none

/-! Well-formedness: one ill-formed command for each check, refused. -/

theorem test_wf_ctx32 : (Instr.value32 2#8).wf 2 256 = false ∧ (Instr.value32 1#8).wf 2 1 = true := by decide
theorem test_wf_ctx64 : (Instr.updb64 1#8 0x31#8).wf 256 1 = false ∧ (Instr.updb64 0#8 0x31#8).wf 1 1 = true := by decide
theorem test_wf_no_context : Instr.comp3_32.wf 1 1 = true ∧ Instr.cflush64.wf 1 1 = true := by decide

/-! Decoding: the words of V21, every row of the table among them, and the refused words of V16. -/

theorem test_decode_new : decodeRow 0x00000000#32 = .ok (.new32 0#8 false false) ∧
    decodeRow 0x00010100#32 = .ok (.new32 1#8 true false) ∧ decodeRow 0x00000200#32 = .ok (.new32 0#8 false true) ∧
    decodeRow 0x10010000#32 = .ok (.new64 1#8 false false) ∧ decodeRow 0x10020300#32 = .ok (.new64 2#8 true true) := by
  decide +kernel
theorem test_decode_context32 : decodeRow 0x01000000#32 = .ok (.reset32 0#8) ∧
    decodeRow 0x0200FF00#32 = .ok (.updb32 0#8 0xFF#8) ∧ decodeRow 0x02FF0000#32 = .ok (.updb32 255#8 0#8) ∧
    decodeRow 0x03000000#32 = .ok (.upd32 0#8) ∧ decodeRow 0x04000000#32 = .ok (.upds32 0#8) ∧
    decodeRow 0x05030000#32 = .ok (.value32 3#8) ∧ decodeRow 0x06000000#32 = .ok (.final32 0#8) ∧
    decodeRow 0x07050000#32 = .ok (.digest32 5#8) := by decide +kernel
theorem test_decode_context64 : decodeRow 0x11010000#32 = .ok (.reset64 1#8) ∧
    decodeRow 0x12013100#32 = .ok (.updb64 1#8 0x31#8) ∧ decodeRow 0x13010000#32 = .ok (.upd64 1#8) ∧
    decodeRow 0x14010000#32 = .ok (.upds64 1#8) ∧ decodeRow 0x15010000#32 = .ok (.value64 1#8) ∧
    decodeRow 0x16010000#32 = .ok (.final64 1#8) ∧ decodeRow 0x17010000#32 = .ok (.digest64 1#8) := by decide +kernel
theorem test_decode_stateless : decodeRow 0x08000000#32 = .ok .comp1_32 ∧ decodeRow 0x08000200#32 = .ok .comp2_32 ∧
    decodeRow 0x08000300#32 = .ok .comp3_32 ∧ decodeRow 0x09000000#32 = .ok .tbuild32 ∧
    decodeRow 0x0A000000#32 = .ok .tget32 ∧ decodeRow 0x0B000000#32 = .ok .cflush32 ∧
    decodeRow 0x18000000#32 = .ok .comp1_64 ∧ decodeRow 0x18000200#32 = .ok .comp2_64 ∧
    decodeRow 0x18000300#32 = .ok .comp3_64 ∧ decodeRow 0x19000000#32 = .ok .tbuild64 ∧
    decodeRow 0x1A000000#32 = .ok .tget64 ∧ decodeRow 0x1B000000#32 = .ok .cflush64 := by decide +kernel
theorem test_decode_refused : decode 2 2 0x05020000#32 = .error .ctxRange ∧ decode 2 2 0x20000000#32 = .error .reservedBits ∧
    decode 2 2 0x02003101#32 = .error .reservedBits ∧ decode 2 2 0x0C000000#32 = .error .reservedOp ∧
    decode 2 2 0x1F000000#32 = .error .reservedOp ∧ decode 2 2 0x08000100#32 = .error .reservedFlags ∧
    decode 2 2 0x00000400#32 = .error .reservedFlags ∧ decode 2 2 0x01000100#32 = .error .reservedBits ∧
    decode 2 2 0x08010000#32 = .error .reservedBits := by decide +kernel
theorem test_encode : encode (.updb32 0#8 0x31#8) = 0x02003100#32 ∧ encode (.new64 2#8 true true) = 0x10020300#32 ∧
    encode .comp2_64 = 0x18000200#32 ∧ encode (.digest32 5#8) = 0x07050000#32 := by decide
theorem test_table_word : decodeTableWord 32 0x1A000000 = some .tget64 ∧ decodeTableWord 32 0x0C000000 = none ∧
    decodeTableWord 32 0x100000000 = none := by decide +kernel

/-! The pure functions. -/

theorem test_bitstep : bitstep 0xEDB88320#32 0x01#32 = 0xEDB88320#32 ∧ bitstep 0xEDB88320#32 0x80#32 = 0x40#32 ∧
    bitsteps 0xEDB88320#32 7 0xFF#32 = 0x5A05DF1A#32 := by decide +kernel -- V1
theorem test_build32 : tabRead (build 0xEDB88320#32) 0x01#8 = 0x77073096#32 ∧
    tabRead (build 0xEDB88320#32) 0xCE#8 = 0x7CDCEFB7#32 ∧ tabRead (build 0x82F63B78#32) 0x9E#8 = 0x3ED04330#32 := by
  decide +kernel -- V3, V5
theorem test_build64 : tabRead (build 0xD800000000000000#64) 0x31#8 = 0x2CB0000000000000#64 ∧
    tabRead (build 0xC96C5795D7870F42#64) 0xFF#8 = 0xE0ADA17364673F59#64 := by decide +kernel -- V4, V6
theorem test_builder : (Builder.ticks 18 (Builder.start 0xEDB88320#32)).dest = [0x00000000#32, 0x77073096#32] := by
  decide +kernel -- V3
theorem test_be : be 0xCBF43926#32 = [0xCB#8, 0xF4#8, 0x39#8, 0x26#8] ∧
    be 0x0102030405060708#64 = [1#8, 2#8, 3#8, 4#8, 5#8, 6#8, 7#8, 8#8] := by decide +kernel -- V15, V18

/-! The commands, one step each. -/

theorem test_new32 : cur32 (exec (.new32 0#8 false false) State.reset) 0 = some 0xFFFFFFFF#32 ∧
    valids (exec (.new32 0#8 false false) State.reset) = some (true, false) := by decide +kernel -- V9, P1
theorem test_new32_private :
    valids (exec (.new32 0#8 true true) (State.on State.reset { Ports.idle with poly := 0x82F63B78#64 })) =
      some (false, false) ∧
    cur32 (exec (.new32 0#8 true true) (State.on State.reset { Ports.idle with poly := 0x82F63B78#64 })) 0 = some 0#32 := by
  decide +kernel -- V9
theorem test_reset32 : cur32 (exec (.reset32 0#8)
    { block with u32 := { block.u32 with bank := [some { acc32 with cur := 0x340BC6D9#32 }] } }) 0 =
      some 0xFFFFFFFF#32 := by decide +kernel -- R103
theorem test_updb32 : cur32 (exec (.updb32 0#8 0x31#8) block) 0 = some 0x7C231048#32 ∧
    cur32 (exec (.updb32 0#8 0xFF#8) block) 0 = some 0x00FFFFFF#32 := by decide +kernel -- V10, V11a
theorem test_updb32_private : cur32 (exec (.updb32 1#8 0x61#8) block) 1 = some 0x3E2FBCCF#32 ∧
    cur32 (exec (.updb32 1#8 0x61#8) block) 0 = some 0xFFFFFFFF#32 := by decide +kernel -- P4
theorem test_upd32 : cur32 (exec (.upd32 0#8) (State.on block (buf digits))) 0 = some 0x340BC6D9#32 := by
  decide +kernel -- V10
theorem test_upd32_absent : resp (exec (.upd32 0#8) block) = some (.fault (.invalidArgument .bufferAbsent)) ∧
    cur32 (exec (.upd32 0#8) block) 0 = some 0xFFFFFFFF#32 := by decide +kernel -- V12
theorem test_upds32 : cur32 (exec (.upds32 0#8) (State.on block { buf digits with off := 2, len := 3 })) 0 =
      some 0xCB0A4AF0#32 ∧
    cur32 (exec (.upds32 0#8) (State.on block { buf digits with off := 9, len := 0 })) 0 = some 0xFFFFFFFF#32 := by
  decide +kernel -- V12
theorem test_upds32_range :
    resp (exec (.upds32 0#8) (State.on block { buf digits with off := 5, len := 5 })) =
      some (.fault (.invalidArgument .sliceRange)) ∧
    resp (exec (.upds32 0#8) (State.on block { buf digits with off := 2 ^ 32 - 1, len := 2 })) =
      some (.fault (.invalidArgument .sliceRange)) := by decide +kernel -- V12
theorem test_value32 : resp (exec (.value32 0#8) block) = some (.ok (.value .w32 0xFFFFFFFF#32)) ∧
    resp (exec (.value32 2#8) block) = some (.fault .notConfigured) := by decide +kernel -- V9, V16
theorem test_final32 : resp (exec (.final32 0#8)
    { block with u32 := { block.u32 with bank := [some { acc32 with cur := 0x340BC6D9#32 }] } }) =
      some (.ok (.value .w32 0xCBF43926#32)) := by decide +kernel -- V15
theorem test_digest32 : resp (exec (.digest32 0#8)
    { block with u32 := { block.u32 with bank := [some { acc32 with cur := 0xFEFDFCFB#32 }] } }) =
      some (.ok (.digest [1#8, 2#8, 3#8, 4#8])) := by decide +kernel -- S3
theorem test_comp1_32 : resp (exec .comp1_32 (State.on State.reset (buf digits))) =
      some (.ok (.value .w32 0xCBF43926#32)) ∧
    resp (exec .comp1_32 (State.on State.reset (buf []))) = some (.ok (.value .w32 0#32)) := by decide +kernel -- V14
theorem test_comp2_32 : resp (exec .comp2_32 (State.on State.reset { buf digits with seed := 0#64 })) =
    some (.ok (.value .w32 0xD202D277#32)) := by decide +kernel -- V14
theorem test_comp3_32 : resp (exec .comp3_32
    (State.on State.reset { buf digits with poly := 0x82F63B78#64, seed := 0xFFFFFFFF#64 })) =
      some (.ok (.value .w32 0xE3069283#32)) := by decide +kernel -- V14
theorem test_tbuild32 :
    entry32 (exec .tbuild32 (State.on State.reset { Ports.idle with poly := 0xEDB88320#64 })) 0xFF#8 = some 0x2D02EF8D#32 ∧
    valids (exec .tbuild32 (State.on State.reset { Ports.idle with poly := 0xEDB88320#64 })) = some (false, false) := by
  decide +kernel -- P5
theorem test_tget32 :
    entry32 (exec .tget32 (State.on State.reset { Ports.idle with poly := 0xEDB88320#64 })) 0x80#8 = some 0xEDB88320#32 ∧
    valids (exec .tget32 (State.on State.reset { Ports.idle with poly := 0xEDB88320#64 })) = some (true, false) := by
  decide +kernel -- V8, P5
theorem test_cflush32 :
    valids (exec .cflush32 { block with u32 := block.u32.populate Config.consts32 }) = some (false, false) ∧
    cur32 (exec .cflush32 block) 0 = some 0xFFFFFFFF#32 := by decide +kernel -- V8
theorem test_new64 : cur64 (exec (.new64 0#8 false false) State.reset) 0 = some 0#64 ∧
    valids (exec (.new64 0#8 false false) State.reset) = some (false, true) := by decide +kernel -- P2
theorem test_reset64 : cur64 (exec (.reset64 0#8)
    { block with u64 := { block.u64 with bank := [some { acc64 with seed := 1#64, cur := 7#64 }] } }) 0 = some 1#64 := by
  decide +kernel -- V13
theorem test_updb64 : cur64 (exec (.updb64 0#8 0x31#8) block) 0 = some 0x2CB0000000000000#64 := by decide +kernel -- V11
theorem test_upd64 : cur64 (exec (.upd64 0#8) (State.on block (buf digits))) 0 = some 0x46A5A9388A5BEFFE#64 := by
  decide +kernel -- V11
theorem test_upds64 : cur64 (exec (.upds64 0#8) (State.on block { buf digits with off := 2, len := 3 })) 0 =
      some 0x2A5BEFD000000000#64 ∧
    resp (exec (.upds64 0#8) (State.on block { buf digits with off := 10, len := 0 })) =
      some (.fault (.invalidArgument .sliceRange)) := by decide +kernel -- V13
theorem test_value64 : resp (exec (.value64 0#8) block) = some (.ok (.value .w64 0#64)) ∧
    resp (exec (.value64 1#8) block) = some (.fault .notConfigured) := by decide +kernel -- R122
theorem test_final64 : resp (exec (.final64 0#8)
    { block with u64 := { block.u64 with bank := [some { acc64 with cur := 0x46A5A9388A5BEFFE#64 }] } }) =
      some (.ok (.value .w64 0x46A5A9388A5BEFFE#64)) := by decide +kernel -- R144
theorem test_digest64 : resp (exec (.digest64 0#8)
    { block with u64 := { block.u64 with bank := [some { acc64 with cur := 0x46A5A9388A5BEFFE#64 }] } }) =
      some (.ok (.digest [0x46#8, 0xA5#8, 0xA9#8, 0x38#8, 0x8A#8, 0x5B#8, 0xEF#8, 0xFE#8])) := by decide +kernel -- R145
theorem test_comp1_64 : resp (exec .comp1_64 (State.on State.reset (buf digits))) =
      some (.ok (.value .w64 0x46A5A9388A5BEFFE#64)) ∧
    resp (exec .comp1_64 (State.on State.reset (buf []))) = some (.ok (.value .w64 0#64)) := by decide +kernel -- V17
theorem test_comp2_64 : resp (exec .comp2_64 (State.on State.reset { buf digits with seed := 0xFFFFFFFFFFFFFFFF#64 })) =
    some (.ok (.value .w64 0x46F6A9388A5BEFFE#64)) := by decide +kernel -- V17
theorem test_comp3_64 : resp (exec .comp3_64 (State.on State.reset { buf digits with poly := 0xC96C5795D7870F42#64 })) =
    some (.ok (.value .w64 0x2B9C7EE4E2780C8A#64)) := by decide +kernel -- V17
theorem test_tbuild64 :
    entry64 (exec .tbuild64 (State.on State.reset { Ports.idle with poly := 0xD800000000000000#64 })) 0x01#8 =
      some 0x01B0000000000000#64 ∧
    valids (exec .tbuild64 (State.on State.reset { Ports.idle with poly := 0xD800000000000000#64 })) =
      some (false, false) := by decide +kernel -- P5
theorem test_tget64 :
    entry64 (exec .tget64 (State.on State.reset { Ports.idle with poly := 0xD800000000000000#64 })) 0x80#8 =
      some 0xD800000000000000#64 ∧
    valids (exec .tget64 (State.on State.reset { Ports.idle with poly := 0xD800000000000000#64 })) =
      some (false, true) := by decide +kernel -- V8
theorem test_cflush64 :
    valids (exec .cflush64 { block with u32 := block.u32.populate Config.consts32,
                                        u64 := block.u64.populate Config.consts64 }) = some (true, false) := by
  decide +kernel -- R97

/-! The step. -/

theorem test_step_from_reset : resp (step (State.reset.withFetchWord 32 0x00000000)) = some (.ok .nothing) ∧
    cur32 (step (State.reset.withFetchWord 32 0x00000000)) 0 = some 0xFFFFFFFF#32 := by decide +kernel -- P1 line 1
theorem test_step_illegal : resp (step (State.reset.withFetchWord 32 0x0C000000)) =
      some (.fault (.illegalCommand .reservedOp)) ∧
    resp (step (State.reset.withFetchWord 32 0x04050000)) = some (.fault (.illegalCommand .ctxRange)) := by
  decide +kernel -- V16
theorem test_step_priority : resp (step (State.reset.withFetchWord 32 0x04000000)) = some (.fault .notConfigured) := by
  decide +kernel -- V16: before BUFFER_ABSENT
theorem test_form_command : (Form.upds .w64 1#8 (some digits) 2 3).command =
    { header := 0x14010000#32, ports := { poly := 0#64, seed := 0#64, buf := some digits, off := 2, len := 3 } } := by
  decide +kernel -- R71, V21
theorem test_pseudo : (Pseudo.newIso 0#8 (some 5#64)).expand.command =
    { header := 0x10000200#32, ports := { Ports.idle with seed := 5#64 } } := by decide +kernel -- R72
theorem test_line : (readLine "UPDB.32 c0, 0x31 -> OK ; a byte".toList).map (fun f => f.command.header) =
      some 0x02003100#32 ∧
    readLine "NEW.64 c2, poly=0x1, seed=0x2".toList = some (.new .w64 2#8 (some 1#64) (some 2#64)) ∧
    readLine "UPDS.32 c0, \"xx6789yy\", 0x2, 0x4".toList =
      some (.upds .w32 0#8 (some [0x78#8, 0x78#8, 0x36#8, 0x37#8, 0x38#8, 0x39#8, 0x79#8, 0x79#8]) 2 4) ∧
    readLine "COMPUTE.32 null".toList = some (.comp1 .w32 none) ∧
    readLine "NEWISO.64 c1, poly=0x1".toList = none := by decide +kernel -- R71, R72, P1 line 4
theorem test_codes : (Response.fault (.illegalCommand .ctxRange)).status = 2#2 ∧
    (Response.fault (.illegalCommand .ctxRange)).info = 3#2 := by decide -- R64

/-! Witnesses. The block above is sound, and the states below meet the hypotheses of the obligations named. -/

theorem acc32_sound : acc32.Sound Config.consts32 := rfl
theorem own32_sound : own32.Sound Config.consts32 := ⟨by decide, rfl⟩
theorem acc64_sound : acc64.Sound Config.consts64 := rfl

theorem block_u32_sound : block.u32.Sound Config.consts32 := by
  refine ⟨by decide, by simp [block], ?_⟩
  intro a ha
  simp only [block, List.mem_cons, Option.some.injEq, reduceCtorEq, List.not_mem_nil, or_false] at ha
  rcases ha with rfl | rfl
  · exact acc32_sound
  · exact own32_sound

theorem block_u64_sound : block.u64.Sound Config.consts64 := by
  refine ⟨by decide, by simp [block], ?_⟩
  intro a ha
  simp only [block, List.mem_cons, Option.some.injEq, reduceCtorEq, List.not_mem_nil, or_false] at ha
  subst ha
  exact acc64_sound

/-- StepKeepsTablesSound, ContextTableIsBuilt: a sound state, with a configured context on each kind of table. -/
theorem witness_sound : block.Sound ∧ Holds view32 block 0#8 acc32 ∧ Holds view32 block 1#8 own32 ∧
    Holds view64 block 0#8 acc64 := ⟨⟨block_u32_sound, block_u64_sound, by decide⟩, rfl, rfl, rfl⟩

/-- StepKeepsTablesSound: a step of a sound state answers a next state. -/
theorem witness_step : ∃ t, step (block.withFetchWord 32 0x0B000000) = .next t := ⟨_, rfl⟩

/-- DecodeOfEncode: a command well formed at the last context number of the largest block. -/
theorem witness_wf : (Instr.upds64 255#8).wf 1 256 = true ∧ (Instr.reset32 0#8).wf 1 1 = true := by decide

/-- EncodeOfDecode, MatchMaskSelectsRow (third clause, the context number just out of range). -/
theorem witness_decoded : decodeRow 0x05020000#32 = .ok (.value32 2#8) ∧ (Instr.value32 2#8).context = some 2#8 ∧
    (Instr.value32 2#8).unit = .w32 ∧ 2 ≤ (2#8 : BitVec 8).toNat := by decide +kernel

/-- MatchMaskSelectsRow (second clause): a word that matches no row. -/
theorem witness_no_row : ∀ i : Instr, 0x0C000000#32 &&& i.maskWord ≠ i.matchWord := by
  intro i; cases i <;> dsimp only [Instr.maskWord, Instr.matchWord] <;> decide

/-- DecodingOrder: a word for each outcome, at the boundaries of the fields. -/
theorem witness_decoding_order : decode 1 256 0x80000000#32 = .error .reservedBits ∧
    decode 1 256 0x00000001#32 = .error .reservedBits ∧ decode 1 256 0x0C000000#32 = .error .reservedOp ∧
    decode 1 256 0x00000400#32 = .error .reservedFlags ∧ decode 1 256 0x0800FF00#32 = .error .reservedFlags ∧
    decode 1 256 0x08000100#32 = .error .reservedFlags ∧ decode 1 256 0x0B000100#32 = .error .reservedBits ∧
    decode 1 256 0x08FF0000#32 = .error .reservedBits ∧ decode 1 256 0x07010000#32 = .error .ctxRange ∧
    decode 1 256 0x17FF0000#32 = .ok (.digest64 255#8) := by decide +kernel

/-- StepRunsDecodedCommand, IllegalCommandAnswered, FaultsWriteNothing: a pending command that decodes, one that reads a buffer,
and one that does not decode, each answered with a fault. -/
theorem witness_pending : (block.withFetchWord 32 0x05020000).pending =
      .issue { header := 0x05020000#32, ports := Ports.idle } :: [] ∧
    decodeRow 0x05020000#32 = .ok (.value32 2#8) ∧
    (Instr.value32 2#8).wf block.u32.bank.length block.u64.bank.length = true ∧
    resp (step (block.withFetchWord 32 0x05020000)) = some (.fault .notConfigured) ∧
    (Instr.upd32 0#8).takesBuffer = true ∧ digits.length < 2 ^ block.lenw ∧
    decode block.u32.bank.length block.u64.bank.length 0x05030000#32 = .error .ctxRange ∧
    resp (step (block.withFetchWord 32 0x05030000)) = some (.fault (.illegalCommand .ctxRange)) := by decide +kernel

/-- The block with a `LENW` of 3 bits, so that a buffer has at most 7 bytes (00_scope R6), and a command pending. -/
def narrow (f : Form) : State := { block with lenw := 3, pending := [.issue f.command] }

/-- IdleAndUnpresentable: the longest buffer of a block runs and one byte more stops; the buffer is not looked at by a command
that is refused before it, and a port that is not used is ignored (R60, R154). -/
theorem witness_unpresentable : State.reset.pending = [] ∧
    cur32 (step (narrow (.upd .w32 0#8 (some (digits.take 7))))) 0 = some 0xAFFC9660#32 ∧
    stop (step (narrow (.upd .w32 0#8 (some (digits.take 8))))) = some .unpresentable ∧
    resp (step (narrow (.upd .w32 2#8 (some digits)))) = some (.fault .notConfigured) ∧
    resp (step { narrow (.value .w32 0#8) with
      pending := [.issue { header := 0x05000000#32, ports := buf digits }] }) =
      some (.ok (.value .w32 0xFFFFFFFF#32)) := by decide +kernel

/-- WideOffsetsAreOutOfRange: an offset and a length that just do not fit in `LENW` bits; the last offset that fits, with an
empty slice at the end of the longest buffer, is in range (93 U12, R44). -/
theorem witness_wide :
    resp (step (narrow (.upds .w32 0#8 (some (digits.take 7)) 8 0))) = some (.fault (.invalidArgument .sliceRange)) ∧
    resp (step (narrow (.upds .w64 0#8 (some []) 0 8))) = some (.fault (.invalidArgument .sliceRange)) ∧
    resp (step (narrow (.upds .w32 0#8 (some (digits.take 7)) 7 0))) = some (.ok .nothing) ∧
    (digits.take 7).length < 2 ^ (narrow (.cflush .w32)).lenw ∧ 2 ^ (narrow (.cflush .w32)).lenw ≤ 8 := by
  decide +kernel

/-- ExecAnswersContextRange: the first context number out of the bank; FaultPriority (second clause): the last one in it. -/
theorem witness_ctx_range : ctxOutOfRange (.upd32 3#8) block = true ∧ ctxOutOfRange (.upd32 2#8) block = false ∧
    resp (exec (.upd32 2#8) block) = some (.fault .notConfigured) := by decide +kernel

/-- PowerOnOfRunningBlock: a power-on reset pending, with a command in flight. -/
theorem witness_power_on : ({ block with pending := [.powerOn (some (Form.cflush .w32).command)] } : State).pending =
    .powerOn (some (Form.cflush .w32).command) :: [] := rfl

/-- BitstepRule: both values of the low bit. -/
theorem witness_bitstep : (1#32).getLsbD 0 = true ∧ (2#64).getLsbD 0 = false := by decide

/-- NewCreatesAccumulator: the last context number of the bank, operands from the ports. -/
theorem witness_new : (view32.get block).Sound view32.consts ∧ (2#8 : BitVec 8).toNat < (view32.get block).bank.length ∧
    (view64.get block).Sound view64.consts ∧ (1#8 : BitVec 8).toNat < (view64.get block).bank.length :=
  ⟨block_u32_sound, by decide, block_u64_sound, by decide⟩

/-- Every statement of a command on a context: a configured context, and one that exists and is not configured. -/
theorem witness_contexts : Holds view32 block 1#8 own32 ∧ Unconfigured view32 block 2#8 ∧ Holds view64 block 0#8 acc64 ∧
    Unconfigured view64 block 1#8 := ⟨rfl, rfl, rfl, rfl⟩

/-- UpdAccumulatesBuffer, UpdsAccumulatesSlice, CompOneUsesDefaults, CompTwoUsesSeed, CompThreeUsesPolynomialAndSeed: an absent
buffer, and a present one on a sound block. -/
theorem witness_buffers : block.ports.buf = none ∧ (State.on block (buf digits)).ports.buf = some digits ∧
    (view32.get (State.on block (buf digits))).Sound view32.consts ∧
    (view64.get (State.on block (buf digits))).Sound view64.consts ∧
    Holds view32 (State.on block (buf digits)) 0#8 acc32 :=
  ⟨rfl, rfl, block_u32_sound, block_u64_sound, rfl⟩

/-- UpdsAccumulatesSlice, SliceBoundCheck: the last slice in range, the empty one at the end, and the first out of range. -/
theorem witness_slices :
    (let s := State.on block { buf digits with off := 4, len := 5 }
     s.ports.off + s.ports.len ≤ digits.length ∧ ([0x35#8, 0x36#8, 0x37#8, 0x38#8, 0x39#8] : List Byte).length = s.ports.len ∧
       ∀ j, j < s.ports.len → ([0x35#8, 0x36#8, 0x37#8, 0x38#8, 0x39#8] : List Byte)[j]? = digits[s.ports.off + j]?) ∧
    (let s := State.on block { buf digits with off := 9, len := 0 }
     s.ports.off + s.ports.len ≤ digits.length ∧ s.ports.len = 0) ∧
    (let s := State.on block { buf digits with off := 10, len := 0 }
     digits.length < s.ports.off + s.ports.len) := by decide

/-- FinalizationLaws, FaultPriority, CacheChangesOnlyThus, ContextsIndependent, AccumulatorLifetime: commands that answer next
states: one OK, one for each fault, on contexts named and not named. -/
theorem witness_answers : resp (exec (.value32 0#8) block) = some (.ok (.value .w32 0xFFFFFFFF#32)) ∧
    resp (exec (.value32 3#8) block) = some (.fault (.illegalCommand .ctxRange)) ∧
    resp (exec (.reset64 1#8) block) = some (.fault .notConfigured) ∧
    resp (exec (.upds32 0#8) block) = some (.fault (.invalidArgument .bufferAbsent)) ∧
    resp (exec (.upds32 0#8) (State.on block { buf [] with len := 1 })) = some (.fault (.invalidArgument .sliceRange)) ∧
    (Instr.updb32 0#8 0x31#8).names .w32 0 = true ∧ (Instr.updb32 0#8 0x31#8).names .w32 1 = false ∧
    (Instr.updb32 0#8 0x31#8).names .w64 0 = false := by decide +kernel

/-- ResetIsSound: the least and the greatest legal parameters. -/
theorem witness_params : Params.Legal { nctx32 := 1, nctx64 := 1, lenw := 1 } ∧
    Params.Legal { nctx32 := 256, nctx64 := 256, lenw := 64 } := by decide

/-- CacheIsInvisible: two sound states that differ in what both shared tables hold. -/
theorem witness_cache : block.Sound ∧
    ({ block with u32 := block.u32.populate Config.consts32, u64 := block.u64.populate Config.consts64 } : State).Sound ∧
    block.hideCache =
      ({ block with u32 := block.u32.populate Config.consts32, u64 := block.u64.populate Config.consts64 } : State).hideCache := by
  refine ⟨witness_sound.1, ⟨⟨block_u32_sound.1, ?_, block_u32_sound.2.2⟩, ⟨block_u64_sound.1, ?_, block_u64_sound.2.2⟩, by decide⟩, rfl⟩
  · intro T hT; exact (Option.some.inj hT).symm
  · intro T hT; exact (Option.some.inj hT).symm

/-- ResultDependsOnNamedContextAlone: two sound states that agree on the ports and on context 0 of the 32-bit unit and differ
elsewhere. -/
theorem witness_agree : block.Sound ∧ (State.por { nctx32 := 1, nctx64 := 1, lenw := 32 }).Sound ∧
    ({ block with u64 := CrcUnit.por 64 1 } : State).Sound ∧ block.ports = State.reset.ports ∧
    block.u32.bank[0]? = ({ block with u64 := CrcUnit.por 64 1 } : State).u32.bank[0]? ∧
    block.u64 ≠ ({ block with u64 := CrcUnit.por 64 1 } : State).u64 := by
  have h32 : (CrcUnit.por 32 1).Sound Config.consts32 := by simp [CrcUnit.Sound]
  have h64 : (CrcUnit.por 64 1).Sound Config.consts64 := by simp [CrcUnit.Sound]
  exact ⟨witness_sound.1, ⟨h32, h64, by decide⟩, ⟨block_u32_sound, h64, by decide⟩, rfl, rfl, by simp [block, CrcUnit.por]⟩

/-- SplittingLaw, UpdateFormsAgree, ComputeRoundTrip: a sound unit with a configured context, buffers that fit (an empty one
among them), a slice inside its buffer. -/
theorem witness_runs : (view32.get block).Sound view32.consts ∧ Holds view32 block 0#8 acc32 ∧
    (∀ B ∈ [digits, [], [0x31#8]], B.length < 2 ^ block.lenw) ∧ 9 + 0 ≤ digits.length ∧
    (0#8 : BitVec 8).toNat < (view32.get block).bank.length :=
  ⟨block_u32_sound, rfl, by decide, by decide, by decide⟩

/-- SplittingLaw: the same block with a run of three UPD commands pending. -/
theorem witness_splitting :
    let s : State := { block with pending := [digits, [], [0x31#8]].map fun B => .issue (Form.upd .w32 0#8 (some B)).command }
    (view32.get s).Sound view32.consts ∧ Holds view32 s 0#8 acc32 ∧
      (∀ B ∈ [digits, [], [0x31#8]], B.length < 2 ^ s.lenw) ∧
      s.pending = [digits, [], [0x31#8]].map fun B => .issue (Form.upd .w32 0#8 (some B)).command :=
  ⟨block_u32_sound, rfl, by decide, rfl⟩

/-- TableLaws: the last power of two, and a table with the entries of a built one. -/
theorem witness_table_laws : 7 < 8 ∧ ∀ i, tabRead (build 0xEDB88320#32) i = tabRead (build 0xEDB88320#32) i :=
  ⟨by decide, fun _ => rfl⟩

/-- AccumulatorLifetime, ContextsIndependent: a RESET of one configured context, which answers a next state, beside another. -/
theorem witness_lifetime : (∃ t, exec (.reset32 1#8) block = .next t) ∧ block.u32.bank[0]? = some (some acc32) ∧
    (Instr.reset32 1#8).names .w32 0 = false ∧ (Instr.reset32 1#8).isNew = false :=
  ⟨⟨_, rfl⟩, rfl, by decide, by decide⟩

end Sys2Proof.Tests
end

section
/-! PROOFS, family 10_state. What a command can do to the contexts of its unit, said once for all commands (10_state R20, R21;
20_memory R51), and from it the lifetime of an accumulator; the values after power-on reset (R35). -/

namespace Sys2Proof

/-- A command names contexts of its own unit alone. -/
theorem Instr.names_unit (i : Instr) (c : Nat) : i.names i.unit c = decide (i.context.map BitVec.toNat = some c) := by
  simp [Instr.names]

/-- NEW is one of the commands that write `CUR` (10_state R20). -/
theorem Instr.writesCur_of_isNew {i : Instr} (h : i.isNew = true) : i.writesCur = true := by
  cases i <;> simp_all [Instr.isNew, Instr.writesCur]

end Sys2Proof

namespace Sys2Proof.Machine

/-- How a command may change the bank of its unit: not at all, as a NEW on the context it names, or, if it writes `CUR`, in
the running value of the configured context it names (10_state R21). -/
inductive BankChange {w : Nat} (i : Instr) (b : List (Ctx w)) : List (Ctx w) → Prop where
  | same : BankChange i b b
  | create {c : BitVec 8} (a : Acc w) (hc : i.context = some c) (hn : i.isNew = true) :
      BankChange i b (b.set c.toNat (some a))
  | write {c : BitVec 8} {a : Acc w} (v : BitVec w) (hc : i.context = some c) (hw : i.writesCur = true)
      (ha : b[c.toNat]? = some (some a)) : BankChange i b (b.set c.toNat (some { a with cur := v }))

/-- The answer is a next state with one response more, in which the bank of unit `W` has changed as the command `i` may change
it and the other unit has not changed. -/
def Effect (i : Instr) (W : Width) (s : State) (A : Answer) : Prop :=
  ∃ u r, A = .next ((s.setUnit W u).respond r) ∧ BankChange i (s.unit W).bank u.bank

@[simp] theorem respond_unit (s : State) (r : Response) (W : Width) : (s.respond r).unit W = s.unit W := by
  cases W <;> rfl

/-- The two units share no state (00_scope R2). -/
theorem unit_setUnit_of_ne {W V : Width} (h : W ≠ V) (s : State) (u : CrcUnit W.bits) :
    (s.setUnit W u).unit V = s.unit V := by
  cases W <;> cases V
  · exact absurd rfl h
  · rfl
  · rfl
  · exact absurd rfl h

/-! The effect of each shared operation. -/

section
variable {i : Instr} {W : Width} {s : State} {c : BitVec 8}

/-- A command that replaces its unit and keeps the bank, whatever it does to the cache. -/
theorem effect_of_bank_eq {u : CrcUnit W.bits} (h : u.bank = (s.unit W).bank) (r : Response) :
    Effect i W s (.next ((s.setUnit W u).respond r)) :=
  ⟨u, r, rfl, h ▸ .same⟩

theorem effect_respond (r : Response) : Effect i W s (.next (s.respond r)) :=
  ⟨s.unit W, r, by rw [setUnit_unit], .same⟩

theorem effect_raise (f : CmdFault) : Effect i W s (.next (s.raise f)) := effect_respond (.fault f)

theorem effect_withAcc {go : Acc W.bits → Answer}
    (h : ∀ a, (s.unit W).bank[c.toNat]? = some (some a) → Effect i W s (go a)) : Effect i W s (withAcc W c s go) := by
  obtain ⟨_, e⟩ | ⟨_, e⟩ | ⟨a, ha, e⟩ := withAcc_cases W c s go <;> rw [e]
  · exact effect_raise _
  · exact effect_raise _
  · exact h a ha

theorem effect_withBuffer {go : List Byte → Answer} (h : ∀ B, Effect i W s (go B)) : Effect i W s (withBuffer s go) := by
  rcases hb : s.ports.buf with _ | B
  · rw [withBuffer_absent hb]; exact effect_raise _
  · rw [withBuffer_present hb]; exact h B

theorem effect_withSlice {go : List Byte → Answer} {B : List Byte} (h : ∀ X, Effect i W s (go X)) :
    Effect i W s (withSlice s B go) := by
  rcases Nat.lt_or_ge B.length (s.ports.off + s.ports.len) with hB | hB
  · rw [withSlice_out_of_range hB]; exact effect_raise _
  · rw [withSlice_in_range hB]; exact h _

theorem effect_accumulate {a : Acc W.bits} (hc : i.context = some c) (hw : i.writesCur = true)
    (ha : (s.unit W).bank[c.toNat]? = some (some a)) (X : List Byte) : Effect i W s (accumulate W c a X s) := by
  refine ⟨_, _, rfl, ?_⟩
  rw [setCtx_bank, tabOf_bank]
  exact .write _ hc hw ha

/-! The effect of each command, at either width. -/

theorem effect_newAcc (hc : i.context = some c) (hn : i.isNew = true) (p sd : Bool) :
    Effect i W s (newAcc W c p sd s) := by
  unfold newAcc
  split
  · refine ⟨_, _, rfl, ?_⟩
    split
    · rw [setCtx_bank, getOrBuild_bank]; exact .create _ hc hn
    · rw [setCtx_bank]; exact .create _ hc hn
  · exact effect_raise _

theorem effect_resetAcc (hc : i.context = some c) (hw : i.writesCur = true) : Effect i W s (resetAcc W c s) :=
  effect_withAcc fun a ha => ⟨_, _, rfl, .write a.seed hc hw ha⟩

theorem effect_updateByte (hc : i.context = some c) (hw : i.writesCur = true) (b : Byte) :
    Effect i W s (updateByte W c b s) :=
  effect_withAcc fun _ ha => effect_accumulate hc hw ha [b]

theorem effect_updateBuffer (hc : i.context = some c) (hw : i.writesCur = true) : Effect i W s (updateBuffer W c s) :=
  effect_withAcc fun _ ha => effect_withBuffer fun B => effect_accumulate hc hw ha B

theorem effect_updateSlice (hc : i.context = some c) (hw : i.writesCur = true) : Effect i W s (updateSlice W c s) :=
  effect_withAcc fun _ ha => effect_withBuffer fun _ => effect_withSlice fun X => effect_accumulate hc hw ha X

/-- VALUE, FINAL and DIGEST: a context is read and answered from. -/
theorem effect_readAcc (r : Acc W.bits → Response) :
    Effect i W s (withAcc W c s fun a => .next (s.respond (r a))) :=
  effect_withAcc fun a _ => effect_respond (r a)

theorem effect_computeOn (P S : BitVec W.bits) : Effect i W s (computeOn W P S s) :=
  effect_withBuffer fun _ => effect_of_bank_eq getOrBuild_bank _

theorem effect_getTable : Effect i W s (getTable W s) := effect_of_bank_eq getOrBuild_bank _

theorem effect_flushCache : Effect i W s (flushCache W s) := effect_of_bank_eq (flush_bank _) _

end

/-- What every command does: one response more, and in its own unit a change of the bank that it may make. -/
theorem exec_effect (i : Instr) (s : State) : Effect i i.unit s (exec i s) := by
  cases i with
  | new32 c p sd | new64 c p sd => exact effect_newAcc rfl rfl p sd
  | reset32 c | reset64 c => exact effect_resetAcc rfl rfl
  | updb32 c b | updb64 c b => exact effect_updateByte rfl rfl b
  | upd32 c | upd64 c => exact effect_updateBuffer rfl rfl
  | upds32 c | upds64 c => exact effect_updateSlice rfl rfl
  | value32 c | final32 c | digest32 c | value64 c | final64 c | digest64 c => exact effect_readAcc _
  | comp1_32 | comp2_32 | comp3_32 | comp1_64 | comp2_64 | comp3_64 => exact effect_computeOn _ _
  | tbuild32 | tbuild64 => exact effect_respond _
  | tget32 | tget64 => exact effect_getTable
  | cflush32 | cflush64 => exact effect_flushCache

/-- The bank of a unit after a command: of the command's own unit changed as the command may, of the other unit the same. -/
theorem exec_bank {i : Instr} {s t : State} (h : exec i s = .next t) (W : Width) :
    (i.unit = W ∧ BankChange i (s.unit W).bank (t.unit W).bank) ∨ (i.unit ≠ W ∧ t.unit W = s.unit W) := by
  obtain ⟨u, r, e, hb⟩ := exec_effect i s
  obtain rfl : (s.setUnit i.unit u).respond r = t := Host.Outcome.next.inj (e.symm.trans h)
  by_cases hW : i.unit = W
  · subst hW; exact .inl ⟨rfl, by simpa using hb⟩
  · exact .inr ⟨hW, by rw [respond_unit, unit_setUnit_of_ne hW]⟩

/-! The lifetime of an accumulator. -/

/-- What R21 says of an accumulator `a` and of what has become of it: without a NEW on it the polynomial, the seed and the
table are as they were, and without a command that writes its `CUR` so is the running value. -/
def Acc.Kept {w : Nat} (created written : Bool) (a a' : Acc w) : Prop :=
  (created = false → a'.poly = a.poly ∧ a'.seed = a.seed ∧ a'.tab = a.tab) ∧ (written = false → a'.cur = a.cur)

theorem Acc.kept_self {w : Nat} (created written : Bool) (a : Acc w) : a.Kept created written a :=
  ⟨fun _ => ⟨rfl, rfl, rfl⟩, fun _ => rfl⟩

/-- A change of a bank keeps a configured context configured and its accumulator as R21 says. -/
theorem BankChange.kept {w : Nat} {i : Instr} {b b' : List (Ctx w)} (h : BankChange i b b') {k : Nat} {a : Acc w}
    (ha : b[k]? = some (some a)) :
    ∃ a', b'[k]? = some (some a') ∧ a.Kept (i.isNew && i.names i.unit k) (i.writesCur && i.names i.unit k) a' := by
  obtain ⟨hlt, _⟩ := List.getElem?_eq_some_iff.mp ha
  cases h with
  | same => exact ⟨a, ha, a.kept_self _ _⟩
  | @create c a₁ hc hn =>
    by_cases hck : c.toNat = k
    · have hnamed : i.names i.unit k = true := by simp [Instr.names_unit, hc, hck]
      refine ⟨a₁, by rw [hck, List.getElem?_set_self hlt], ?_⟩
      simp [Acc.Kept, hnamed, hn, Instr.writesCur_of_isNew hn]
    · exact ⟨a, by rw [List.getElem?_set_ne hck, ha], a.kept_self _ _⟩
  | @write c a₀ v hc hw h₀ =>
    by_cases hck : c.toNat = k
    · have hnamed : i.names i.unit k = true := by simp [Instr.names_unit, hc, hck]
      obtain rfl : a₀ = a := by simpa [hck, ha] using h₀.symm
      refine ⟨{ a₀ with cur := v }, by rw [hck, List.getElem?_set_self hlt], ?_⟩
      simp [Acc.Kept, hnamed, hw]
    · exact ⟨a, by rw [List.getElem?_set_ne hck, ha], a.kept_self _ _⟩

/-- Every command keeps every configured context of either unit as R21 says. -/
theorem exec_keeps_acc {i : Instr} {s t : State} {c : Nat} (W : Width) {a : Acc W.bits} (h : exec i s = .next t)
    (ha : (s.unit W).bank[c]? = some (some a)) :
    ∃ a', (t.unit W).bank[c]? = some (some a') ∧ a.Kept (i.isNew && i.names W c) (i.writesCur && i.names W c) a' := by
  rcases exec_bank h W with ⟨rfl, hb⟩ | ⟨_, hu⟩
  · exact hb.kept ha
  · exact ⟨a, by rw [hu, ha], a.kept_self _ _⟩

/-- Settles O51: each command changes a bank in one of three ways, and each of them keeps what R21 says. -/
theorem accumulatorLifetime : Obligations.AccumulatorLifetime :=
  ⟨fun _ _ _ _ _ h ha => exec_keeps_acc .w32 h ha, fun _ _ _ _ _ h ha => exec_keeps_acc .w64 h ha⟩

/-! Power-on reset. -/

/-- Settles O9: the banks are replicas of the unconfigured context, and the shared tables are absent. -/
theorem powerOnValues : Obligations.PowerOnValues := fun _ =>
  ⟨List.length_replicate, List.length_replicate, fun _ => List.eq_of_mem_replicate, fun _ => List.eq_of_mem_replicate,
    rfl, rfl⟩

end Sys2Proof.Machine
end


section
/-! PROOFS, family 20_memory. UPDS on a configured context and a present buffer: in range it accumulates the slice, out of range
it is a fault, and an empty slice leaves the bank as it was (20_memory R42, R44). -/

namespace Sys2Proof.Machine

/-- Writing back what a context holds leaves the bank as it was. -/
theorem setCtx_bank_of_holds {w : Nat} {u : CrcUnit w} {c : BitVec 8} {a : Acc w}
    (h : u.bank[c.toNat]? = some (some a)) : (u.setCtx c a).bank = u.bank := by
  obtain ⟨hlt, ha⟩ := List.getElem?_eq_some_iff.mp h
  rw [setCtx_bank, ← ha, List.set_getElem_self hlt]

@[simp] theorem slice_zero_length (B : List Byte) (o : Nat) : slice B o 0 = [] := List.take_zero

section
variable {W : Width} {c : BitVec 8} {s : State} {a : Acc W.bits} {B : List Byte}

/-- An update answers OK, and over no bytes it leaves the bank as it was, whatever it does to the cache. -/
theorem accumulate_answers_ok (ha : (s.unit W).bank[c.toNat]? = some (some a)) (X : List Byte) :
    ∃ u, accumulate W c a X s = .next ((s.setUnit W u).respond (.ok .nothing)) ∧
      (X = [] → u.bank = (s.unit W).bank) := by
  refine ⟨_, rfl, ?_⟩
  rintro rfl
  rw [fold, setCtx_bank_of_holds (by rw [tabOf_bank, ha]), tabOf_bank]

theorem updateSlice_in_range (ha : (s.unit W).bank[c.toNat]? = some (some a)) (hb : s.ports.buf = some B)
    (h : s.ports.off + s.ports.len ≤ B.length) :
    updateSlice W c s = accumulate W c a (slice B s.ports.off s.ports.len) s := by
  rw [updateSlice, withAcc_configured ha, withBuffer_present hb, withSlice_in_range h]

theorem updateSlice_out_of_range (ha : (s.unit W).bank[c.toNat]? = some (some a)) (hb : s.ports.buf = some B)
    (h : B.length < s.ports.off + s.ports.len) :
    updateSlice W c s = .next (s.raise (.invalidArgument .sliceRange)) := by
  rw [updateSlice, withAcc_configured ha, withBuffer_present hb, withSlice_out_of_range h]

/-- The bound check at either width: the two outcomes exclude each other, and an empty slice leaves the bank in both. -/
theorem updateSlice_bound_check (ha : (s.unit W).bank[c.toNat]? = some (some a)) (hb : s.ports.buf = some B) :
    ∃ t, updateSlice W c s = .next t ∧
      (s.ports.off + s.ports.len ≤ B.length → t.out = .ok .nothing :: s.out) ∧
      (B.length < s.ports.off + s.ports.len →
        t.out = .fault (.invalidArgument .sliceRange) :: s.out ∧ (t.unit W).bank = (s.unit W).bank) ∧
      (s.ports.len = 0 → (t.unit W).bank = (s.unit W).bank) := by
  rcases Nat.lt_or_ge B.length (s.ports.off + s.ports.len) with hout | hin
  · have hbank : ((s.raise (.invalidArgument .sliceRange)).unit W).bank = (s.unit W).bank := by
      rw [raise_eq, respond_unit]
    exact ⟨_, updateSlice_out_of_range ha hb hout, fun hin => absurd hin (Nat.not_le.mpr hout),
      fun _ => ⟨raise_out _ _, hbank⟩, fun _ => hbank⟩
  · obtain ⟨u, e, hempty⟩ := accumulate_answers_ok ha (slice B s.ports.off s.ports.len)
    refine ⟨_, (updateSlice_in_range ha hb hin).trans e, fun _ => by simp, fun hout => absurd hout (Nat.not_lt.mpr hin),
      fun hlen => ?_⟩
    rw [respond_unit, unit_setUnit, hempty (by rw [hlen, slice_zero_length])]

end

/-- Settles O42: the check of either width is the one of `updateSlice`, on natural numbers. -/
theorem sliceBoundCheck : Obligations.SliceBoundCheck :=
  ⟨fun _ _ _ _ ha hb => updateSlice_bound_check (W := .w32) ha hb,
    fun _ _ _ _ ha hb => updateSlice_bound_check (W := .w64) ha hb⟩

end Sys2Proof.Machine
end

section
/-! PROOFS, family 30_encoding. The decoder of R65 said once as an `↔` on the fields of a header word; the match and mask of a
row in the same fields, so that matching a row and decoding to it are the same conditions (R67); and the order of the decision
on the word read as a number (R65). -/

namespace Sys2Proof

/-! The fields of a header word, as numbers. -/

section
variable (h g : BitVec 32)

theorem Header.rsv0_toNat : (Header.rsv0 h).toNat = h.toNat / 2 ^ 29 := by
  simp [Header.rsv0, Nat.shiftRight_eq_div_pow]; omega
theorem Header.w_eq : Header.w h = decide (h.toNat / 2 ^ 28 % 2 = 1) := by
  simp [Header.w, BitVec.getLsbD, Nat.testBit_eq_decide_div_mod_eq]
theorem Header.op_toNat : (Header.op h).toNat = h.toNat / 2 ^ 24 % 16 := by
  simp [Header.op, Nat.shiftRight_eq_div_pow]
theorem Header.ctx_toNat : (Header.ctx h).toNat = h.toNat / 2 ^ 16 % 256 := by
  simp [Header.ctx, Nat.shiftRight_eq_div_pow]
theorem Header.imm8_toNat : (Header.imm8 h).toNat = h.toNat / 2 ^ 8 % 256 := by
  simp [Header.imm8, Nat.shiftRight_eq_div_pow]
theorem Header.rsv1_toNat : (Header.rsv1 h).toNat = h.toNat % 256 := by
  simp [Header.rsv1]

/-- The fields cover the word (30_encoding R61). -/
theorem Header.ext_iff : h = g ↔ Header.rsv0 h = Header.rsv0 g ∧ Header.rsv1 h = Header.rsv1 g ∧ Header.w h = Header.w g ∧
    Header.op h = Header.op g ∧ Header.ctx h = Header.ctx g ∧ Header.imm8 h = Header.imm8 g := by
  refine ⟨fun e => by simp [e], fun ⟨h0, h1, hw, hop, hc, hi⟩ => ?_⟩
  simp only [← BitVec.toNat_inj, Header.rsv0_toNat, Header.rsv1_toNat, Header.w_eq, Header.op_toNat, Header.ctx_toNat,
    Header.imm8_toNat, decide_eq_decide] at *
  omega

/-! The fields of a conjunction, and the mask that leaves free bits of `CTX` and `IMM8` and no others. -/

theorem Header.rsv0_and : Header.rsv0 (h &&& g) = Header.rsv0 h &&& Header.rsv0 g := BitVec.extractLsb'_and
theorem Header.rsv1_and : Header.rsv1 (h &&& g) = Header.rsv1 h &&& Header.rsv1 g := BitVec.extractLsb'_and
theorem Header.w_and : Header.w (h &&& g) = (Header.w h && Header.w g) := BitVec.getLsbD_and
theorem Header.op_and : Header.op (h &&& g) = Header.op h &&& Header.op g := BitVec.extractLsb'_and
theorem Header.ctx_and : Header.ctx (h &&& g) = Header.ctx h &&& Header.ctx g := BitVec.extractLsb'_and
theorem Header.imm8_and : Header.imm8 (h &&& g) = Header.imm8 h &&& Header.imm8 g := BitVec.extractLsb'_and

/-- The mask with `cm` over the field `CTX`, `im` over the field `IMM8` and ones elsewhere (30_encoding R67). -/
def headerMask (cm im : BitVec 8) : BitVec 32 := 0xE00000FF#32 ||| mkHeader true 0xF#4 cm im

variable (cm im : BitVec 8)

theorem rsv0_headerMask : Header.rsv0 (headerMask cm im) = BitVec.allOnes 3 :=
  BitVec.extractLsb'_or.trans (congrArg _ (rsv0_mkHeader ..))
theorem rsv1_headerMask : Header.rsv1 (headerMask cm im) = BitVec.allOnes 8 :=
  BitVec.extractLsb'_or.trans (congrArg _ (rsv1_mkHeader ..))
theorem w_headerMask : Header.w (headerMask cm im) = true :=
  BitVec.getLsbD_or.trans (congrArg _ (w_mkHeader ..))
theorem op_headerMask : Header.op (headerMask cm im) = BitVec.allOnes 4 :=
  BitVec.extractLsb'_or.trans (congrArg _ (op_mkHeader ..))
theorem ctx_headerMask : Header.ctx (headerMask cm im) = cm :=
  (BitVec.extractLsb'_or.trans (congrArg _ (ctx_mkHeader ..))).trans BitVec.zero_or
theorem imm8_headerMask : Header.imm8 (headerMask cm im) = im :=
  (BitVec.extractLsb'_or.trans (congrArg _ (imm8_mkHeader ..))).trans BitVec.zero_or

/-- What matching a row asks of the fields of a word (30_encoding R67). -/
theorem and_headerMask_eq_mkHeader_iff {w : Bool} {op : BitVec 4} {c b : BitVec 8} :
    h &&& headerMask cm im = mkHeader w op c b ↔ Header.rsv0 h = 0 ∧ Header.rsv1 h = 0 ∧ Header.w h = w ∧
      Header.op h = op ∧ Header.ctx h &&& cm = c ∧ Header.imm8 h &&& im = b := by
  simp [-BitVec.reduceAllOnes, Header.ext_iff, Header.rsv0_and, Header.rsv1_and, Header.w_and, Header.op_and,
    Header.ctx_and, Header.imm8_and, rsv0_headerMask, rsv1_headerMask, w_headerMask, op_headerMask, ctx_headerMask,
    imm8_headerMask]

end

/-! The flags in `IMM8`. -/

theorem flagsRest_toNat (b : BitVec 8) : (Header.flagsRest b).toNat = b.toNat / 4 := by
  simp [Header.flagsRest, Nat.shiftRight_eq_div_pow]; omega

theorem flagP_without_flagS_iff : ∀ b : BitVec 8, (Header.flagP b && !Header.flagS b) = true ↔ b.toNat % 4 = 1 := by
  decide +kernel

theorem flagsRest_and : ∀ b : BitVec 8, Header.flagsRest (b &&& 0xFC#8) = Header.flagsRest b := by decide +kernel

theorem flagsRest_eq_zero_iff : ∀ b : BitVec 8, Header.flagsRest b = 0 ↔ b &&& 0xFC#8 = 0 := by decide +kernel

theorem mkFlags_flags : ∀ b : BitVec 8, Header.flagsRest b = 0 → mkFlags (Header.flagP b) (Header.flagS b) = b := by
  decide +kernel

/-- The three compute forms (30_encoding R68). -/
theorem checkImm_comp_eq_none_iff : ∀ b : BitVec 8, checkImm .comp b = none ↔
    b = mkFlags false false ∨ b = mkFlags false true ∨ b = mkFlags true true := by
  decide +kernel

/-! The operations: code, and the bits of `CTX` and `IMM8` that are fixed. -/

/-- The code in the field OP (30_encoding R66). -/
def Operation.code : Operation → BitVec 4
  | .new => 0x0#4
  | .reset => 0x1#4
  | .updb => 0x2#4
  | .upd => 0x3#4
  | .upds => 0x4#4
  | .value => 0x5#4
  | .final => 0x6#4
  | .digest => 0x7#4
  | .comp => 0x8#4
  | .tbuild => 0x9#4
  | .tget => 0xA#4
  | .cflush => 0xB#4

/-- The bits of `CTX` that the rows of the operation fix (30_encoding R67). -/
def Operation.ctxMask : Operation → BitVec 8
  | .new | .reset | .updb | .upd | .upds | .value | .final | .digest => 0x00#8
  | .comp | .tbuild | .tget | .cflush => BitVec.allOnes 8

/-- The bits of `IMM8` that the rows of the operation fix (30_encoding R67). -/
def Operation.immMask : Operation → BitVec 8
  | .new => 0xFC#8
  | .updb => 0x00#8
  | .reset | .upd | .upds | .value | .final | .digest | .comp | .tbuild | .tget | .cflush => BitVec.allOnes 8

theorem operationOf_eq_some_iff {v : BitVec 4} {o : Operation} : operationOf v = some o ↔ v = o.code := by
  revert v; cases o <;> decide

theorem operationOf_eq_none_iff {v : BitVec 4} : operationOf v = none ↔ 0xC ≤ v.toNat := by
  revert v; decide

theorem checkCtx_eq_none_iff {o : Operation} {c : BitVec 8} : checkCtx o c = none ↔ c &&& o.ctxMask = 0 := by
  cases o <;> simp [-BitVec.reduceAllOnes, checkCtx, Operation.ctxMask]

/-- The check of the immediate looks at the fixed bits of `IMM8` alone. -/
theorem checkImm_and_immMask (o : Operation) (b : BitVec 8) : checkImm o (b &&& o.immMask) = checkImm o b := by
  cases o <;> simp [-BitVec.reduceAllOnes, checkImm, Operation.immMask, flagsRest_and]

/-! What the decoder accepts, and the row it selects. -/

/-- R65 step 1. -/
theorem decodeRow_of_reserved {h : BitVec 32} (hr : Header.rsv0 h ≠ 0 ∨ Header.rsv1 h ≠ 0) :
    decodeRow h = .error .reservedBits := by
  rw [decodeRow, if_pos hr]

section
variable {h : BitVec 32} {o : Operation} {e : IllegalInfo} (hr : ¬(Header.rsv0 h ≠ 0 ∨ Header.rsv1 h ≠ 0))
include hr

/-- R65 step 2. -/
theorem decodeRow_of_operationOf_none (ho : operationOf (Header.op h) = none) : decodeRow h = .error .reservedOp := by
  rw [decodeRow, if_neg hr, ho]

variable (ho : operationOf (Header.op h) = some o)
include ho

/-- R65 step 3. -/
theorem decodeRow_of_checkImm_some (hb : checkImm o (Header.imm8 h) = some e) : decodeRow h = .error e := by
  simp only [decodeRow, if_neg hr, ho, hb]

/-- R65 step 4, first line. -/
theorem decodeRow_of_checkCtx_some (hb : checkImm o (Header.imm8 h) = none) (hc : checkCtx o (Header.ctx h) = some e) :
    decodeRow h = .error e := by
  simp only [decodeRow, if_neg hr, ho, hb, hc]

/-- R65 step 5. -/
theorem decodeRow_of_checks_none (hb : checkImm o (Header.imm8 h) = none) (hc : checkCtx o (Header.ctx h) = none) :
    decodeRow h = .ok (selectRow (Header.w h) o (Header.ctx h) (Header.imm8 h)) := by
  simp only [decodeRow, if_neg hr, ho, hb, hc]

end

/-- What the decoder asks of the fields of a word it accepts, and the command it answers. -/
theorem decodeRow_eq_ok_iff {h : BitVec 32} {i : Instr} : decodeRow h = .ok i ↔ Header.rsv0 h = 0 ∧ Header.rsv1 h = 0 ∧
    ∃ o, Header.op h = o.code ∧ checkImm o (Header.imm8 h) = none ∧ checkCtx o (Header.ctx h) = none ∧
      selectRow (Header.w h) o (Header.ctx h) (Header.imm8 h) = i := by
  constructor
  · intro hi
    by_cases hr : Header.rsv0 h ≠ 0 ∨ Header.rsv1 h ≠ 0
    · simp [decodeRow_of_reserved hr] at hi
    rcases ho : operationOf (Header.op h) with _ | o
    · simp [decodeRow_of_operationOf_none hr ho] at hi
    rcases hb : checkImm o (Header.imm8 h) with _ | e
    · rcases hc : checkCtx o (Header.ctx h) with _ | e
      · rw [decodeRow_of_checks_none hr ho hb hc] at hi
        simp only [not_or, not_not] at hr
        exact ⟨hr.1, hr.2, o, operationOf_eq_some_iff.mp ho, hb, hc, Except.ok.inj hi⟩
      · simp [decodeRow_of_checkCtx_some hr ho hb hc] at hi
    · simp [decodeRow_of_checkImm_some hr ho hb] at hi
  · rintro ⟨h0, h1, o, ho, hb, hc, rfl⟩
    exact decodeRow_of_checks_none (by simp [h0, h1]) (operationOf_eq_some_iff.mpr ho) hb hc

section
variable {w : Bool} {o : Operation} {c b : BitVec 8}

theorem selectRow_maskWord : (selectRow w o c b).maskWord = headerMask o.ctxMask o.immMask := by
  cases o with
  | comp => unfold selectRow; cases w <;> cases Header.flagP b <;> cases Header.flagS b <;> rfl
  | new | reset | updb | upd | upds | value | final | digest | tbuild | tget | cflush => cases w <;> rfl

/-- The match of the row selected: its fields with the free bits zero. -/
theorem selectRow_matchWord (hb : checkImm o b = none) :
    (selectRow w o c b).matchWord = mkHeader w o.code 0 (b &&& o.immMask) := by
  cases o with
  | new =>
    have hfree : b &&& 0xFC#8 = 0 := (flagsRest_eq_zero_iff b).mp (by simpa [checkImm] using hb)
    rw [Operation.immMask, hfree]
    cases w <;> rfl
  | updb =>
    rw [Operation.immMask, BitVec.and_zero]
    cases w <;> rfl
  | comp => obtain rfl | rfl | rfl := (checkImm_comp_eq_none_iff b).mp hb <;> cases w <;> rfl
  | reset | upd | upds | value | final | digest | tbuild | tget | cflush =>
    obtain rfl : b = 0 := by simpa [checkImm] using hb
    cases w <;> rfl

/-- The header word of the row selected is made of the fields that selected it. -/
theorem encode_selectRow (hb : checkImm o b = none) (hc : checkCtx o c = none) :
    encode (selectRow w o c b) = mkHeader w o.code c b := by
  cases o with
  | new =>
    have hflags : mkFlags (Header.flagP b) (Header.flagS b) = b := mkFlags_flags b (by simpa [checkImm] using hb)
    cases w <;> simp [selectRow, encode, Operation.code, hflags]
  | updb => cases w <;> rfl
  | comp =>
    obtain rfl : c = 0 := by simpa [checkCtx] using hc
    obtain rfl | rfl | rfl := (checkImm_comp_eq_none_iff b).mp hb <;> cases w <;> rfl
  | reset | upd | upds | value | final | digest =>
    obtain rfl : b = 0 := by simpa [checkImm] using hb
    cases w <;> rfl
  | tbuild | tget | cflush =>
    obtain rfl : b = 0 := by simpa [checkImm] using hb
    obtain rfl : c = 0 := by simpa [checkCtx] using hc
    cases w <;> rfl

/-- The operation codes below 8 name a context (30_encoding R65 step 4). -/
theorem selectRow_context : (selectRow w o c b).context = if o.code.toNat < 8 then some c else none := by
  cases o with
  | comp => unfold selectRow; cases w <;> cases Header.flagP b <;> cases Header.flagS b <;> rfl
  | new | reset | updb | upd | upds | value | final | digest | tbuild | tget | cflush => cases w <;> rfl

theorem selectRow_unit : (selectRow w o c b).unit = if w then .w64 else .w32 := by
  cases o with
  | comp => unfold selectRow; cases w <;> cases Header.flagP b <;> cases Header.flagS b <;> rfl
  | new | reset | updb | upd | upds | value | final | digest | tbuild | tget | cflush => cases w <;> rfl

end

/-- Every command decodes from its own header word. -/
theorem decodeRow_encode (i : Instr) : decodeRow (encode i) = .ok i := by
  cases i <;> simp [encode, decodeRow, operationOf, checkImm, checkCtx, selectRow]

/-- A word that decodes is the header word of its command. -/
theorem encode_of_decodeRow {h : BitVec 32} {i : Instr} (hi : decodeRow h = .ok i) : encode i = h := by
  obtain ⟨h0, h1, o, hop, hb, hc, rfl⟩ := decodeRow_eq_ok_iff.mp hi
  rw [encode_selectRow hb hc]
  simp [Header.ext_iff, h0, h1, hop]

/-- Every command is a row selected by fields that the checks of R65 let pass. -/
theorem exists_selectRow (i : Instr) : ∃ w o c b, checkImm o b = none ∧ checkCtx o c = none ∧ selectRow w o c b = i := by
  obtain ⟨_, _, o, _, hb, hc, hi⟩ := decodeRow_eq_ok_iff.mp (decodeRow_encode i)
  exact ⟨_, o, _, _, hb, hc, hi⟩

/-! Matching a row and decoding to it. -/

/-- The match of a command tells its row, and so its mask. -/
theorem maskWord_eq_of_matchWord_eq {i j : Instr} (h : i.matchWord = j.matchWord) : i.maskWord = j.maskWord := by
  obtain ⟨w, o, c, b, hb, _, rfl⟩ := exists_selectRow i
  obtain ⟨w', o', c', b', hb', _, rfl⟩ := exists_selectRow j
  rw [selectRow_matchWord hb, selectRow_matchWord hb'] at h
  have hcode : o.code = o'.code := by simpa using congrArg Header.op h
  obtain rfl : o = o' := Option.some.inj
    ((operationOf_eq_some_iff.mpr rfl).symm.trans (operationOf_eq_some_iff.mpr hcode))
  rw [selectRow_maskWord, selectRow_maskWord]

/-- A word that decodes matches the row of its command. -/
theorem and_maskWord_of_decodeRow {h : BitVec 32} {i : Instr} (hi : decodeRow h = .ok i) :
    h &&& i.maskWord = i.matchWord := by
  obtain ⟨h0, h1, o, hop, hb, hc, rfl⟩ := decodeRow_eq_ok_iff.mp hi
  rw [selectRow_maskWord, selectRow_matchWord hb, and_headerMask_eq_mkHeader_iff]
  exact ⟨h0, h1, rfl, hop, checkCtx_eq_none_iff.mp hc, rfl⟩

/-- A word that matches the row of a command decodes to a command of that row. -/
theorem decodeRow_of_and_maskWord {h : BitVec 32} {i : Instr} (hi : h &&& i.maskWord = i.matchWord) :
    ∃ j, decodeRow h = .ok j ∧ j.matchWord = i.matchWord := by
  obtain ⟨w, o, c, b, hb, _, rfl⟩ := exists_selectRow i
  rw [selectRow_matchWord hb] at hi ⊢
  rw [selectRow_maskWord, and_headerMask_eq_mkHeader_iff] at hi
  obtain ⟨h0, h1, rfl, hop, hctx, himm⟩ := hi
  have hb' : checkImm o (Header.imm8 h) = none := by rw [← checkImm_and_immMask, himm, checkImm_and_immMask, hb]
  refine ⟨_, decodeRow_eq_ok_iff.mpr ⟨h0, h1, o, hop, hb', checkCtx_eq_none_iff.mpr hctx, rfl⟩, ?_⟩
  rw [selectRow_matchWord hb', himm]

/-! The context range, and the order of the decision. -/

/-- A command that is not well formed names a context out of its unit's range (30_encoding R65 step 4). -/
theorem Instr.wf_eq_false_iff {i : Instr} {n32 n64 : Nat} :
    i.wf n32 n64 = false ↔ ∃ c, i.context = some c ∧ Machine.ofUnit i.unit n32 n64 ≤ c.toNat := by
  unfold Instr.wf Machine.ofUnit
  cases i.context <;> cases i.unit <;> simp

theorem decode_of_decodeRow_ok {h : BitVec 32} {i : Instr} {n32 n64 : Nat} (hi : decodeRow h = .ok i) :
    decode n32 n64 h = if i.wf n32 n64 then .ok i else .error .ctxRange := by
  rw [decode, hi]

theorem decode_of_decodeRow_error {h : BitVec 32} {e : IllegalInfo} {n32 n64 : Nat} (he : decodeRow h = .error e) :
    decode n32 n64 h = .error e := by
  rw [decode, he]

/-- R65 step 3, on the numbers. -/
theorem checkImm_eq (o : Operation) (b : BitVec 8) : checkImm o b =
    if (o.code.toNat = 0 ∨ o.code.toNat = 8) ∧ b.toNat / 4 ≠ 0 then some .reservedFlags
    else if o.code.toNat = 8 ∧ b.toNat % 4 = 1 then some .reservedFlags
    else if o.code.toNat ≠ 0 ∧ o.code.toNat ≠ 8 ∧ o.code.toNat ≠ 2 ∧ b.toNat ≠ 0 then some .reservedBits
    else none := by
  cases o <;> simp [checkImm, Operation.code, ← BitVec.toNat_inj, flagsRest_toNat, ← flagP_without_flagS_iff]

/-- R65 step 4, first line, on the numbers. -/
theorem checkCtx_eq (o : Operation) (c : BitVec 8) :
    checkCtx o c = if 8 ≤ o.code.toNat ∧ c.toNat ≠ 0 then some .reservedBits else none := by
  cases o <;> simp [checkCtx, Operation.code, ← BitVec.toNat_inj]

/-- R65 step 4, second line, on the numbers. -/
theorem selectRow_wf_eq_false_iff {w : Bool} {o : Operation} {c b : BitVec 8} {n32 n64 : Nat} :
    (selectRow w o c b).wf n32 n64 = false ↔ o.code.toNat < 8 ∧ (bif w then n64 else n32) ≤ c.toNat := by
  rw [Instr.wf_eq_false_iff, selectRow_context, selectRow_unit]
  cases w <;> simp [Machine.ofUnit]

end Sys2Proof

namespace Sys2Proof.Machine

/-- Settles O4: matching a row and decoding to it ask the same of the fields of a word; the context range is the check of
`Instr.wf`. -/
theorem matchMaskSelectsRow : Obligations.MatchMaskSelectsRow := by
  refine ⟨fun h i => ⟨decodeRow_of_and_maskWord, ?_⟩, fun h hno => ?_, fun h i c n32 n64 hi hc hrange => ?_⟩
  · rintro ⟨j, hj, hrow⟩
    rw [← hrow, ← maskWord_eq_of_matchWord_eq hrow, and_maskWord_of_decodeRow hj]
  · rcases hd : decodeRow h with e | i
    · exact ⟨e, rfl⟩
    · exact absurd (and_maskWord_of_decodeRow hd) (hno i)
  · have hwf : i.wf n32 n64 = false := Instr.wf_eq_false_iff.mpr ⟨c, hc, hrange⟩
    simp [decode_of_decodeRow_ok hi, hwf]

/-- Settles O5: the numbers are those of the fields, and each branch is one outcome of `decodeRow`, the last two told apart by
`Instr.wf`. -/
theorem decodingOrder : Obligations.DecodingOrder := by
  rintro n32 n64 h _ _ _ _ _ rfl rfl rfl rfl rfl
  have hrsv : (h.toNat / 2 ^ 29 ≠ 0 ∨ h.toNat % 256 ≠ 0) ↔ (Header.rsv0 h ≠ 0 ∨ Header.rsv1 h ≠ 0) := by
    simp [← BitVec.toNat_inj, Header.rsv0_toNat, Header.rsv1_toNat]
  have hnctx : (if h.toNat / 2 ^ 28 % 2 = 0 then n32 else n64) = bif Header.w h then n64 else n32 := by
    rw [Header.w_eq]; grind
  rw [hnctx, ← Header.op_toNat, ← Header.ctx_toNat, ← Header.imm8_toNat]
  simp only [hrsv]
  by_cases hr : Header.rsv0 h ≠ 0 ∨ Header.rsv1 h ≠ 0
  · rw [if_pos hr, decode_of_decodeRow_error (decodeRow_of_reserved hr)]
  rw [if_neg hr]
  rcases ho : operationOf (Header.op h) with _ | o
  · rw [if_pos (operationOf_eq_none_iff.mp ho), decode_of_decodeRow_error (decodeRow_of_operationOf_none hr ho)]
  have hop : ¬0xC ≤ (Header.op h).toNat := fun hle => by simp [operationOf_eq_none_iff.mpr hle] at ho
  rw [if_neg hop, operationOf_eq_some_iff.mp ho]
  split_ifs with hflags hcomp himm hctx hrange
  · exact decode_of_decodeRow_error (decodeRow_of_checkImm_some hr ho (by rw [checkImm_eq, if_pos hflags]))
  · exact decode_of_decodeRow_error
      (decodeRow_of_checkImm_some hr ho (by rw [checkImm_eq, if_neg hflags, if_pos hcomp]))
  · exact decode_of_decodeRow_error
      (decodeRow_of_checkImm_some hr ho (by rw [checkImm_eq, if_neg hflags, if_neg hcomp, if_pos himm]))
  all_goals
    have hb : checkImm o (Header.imm8 h) = none := by rw [checkImm_eq, if_neg hflags, if_neg hcomp, if_neg himm]
  · exact decode_of_decodeRow_error (decodeRow_of_checkCtx_some hr ho hb (by rw [checkCtx_eq, if_pos hctx]))
  all_goals
    have hrow := decodeRow_of_checks_none hr ho hb (by rw [checkCtx_eq, if_neg hctx])
  · rw [decode_of_decodeRow_ok hrow, selectRow_wf_eq_false_iff.mpr hrange]; rfl
  · exact ⟨_, by rw [decode_of_decodeRow_ok hrow, if_pos (by simpa using selectRow_wf_eq_false_iff.not.mpr hrange)],
      encode_of_decodeRow hrow⟩

end Sys2Proof.Machine
end

section
/-! PROOFS, family 40_table_builder. The shift/XOR step by the low bit of its operand (R80); the entries of a built table and
the byte step that reads one back (R81); TBUILD, which answers the built table and keeps everything else (R85, R86). -/

namespace Sys2Proof.Machine

/-! The shift/XOR step and the entries of a table. -/

section
variable {w : Nat} {P e : BitVec w}

theorem bitstep_of_lsb_true (h : e.getLsbD 0 = true) : bitstep P e = (e >>> 1) ^^^ P := if_pos h

theorem bitstep_of_lsb_false (h : e.getLsbD 0 = false) : bitstep P e = e >>> 1 := if_neg (by simp [h])

/-- Over a zero running value the index is the byte itself. -/
theorem accIndex_zero (hw : 8 ≤ w) (b : Byte) : accIndex 0#w b = b := by
  simp [accIndex, BitVec.setWidth_setWidth_of_le b hw]

/-- From a zero running value the byte step reads the entry of its byte (42 R100, 43 R115). -/
theorem acc_zero (hw : 8 ≤ w) (T : Table w) (b : Byte) : acc T 0 b = tabRead T b := by
  simp [acc, accIndex_zero hw]

end

/-- Every unit is at least a byte wide (00_scope R2). -/
theorem eight_le_bits (W : Width) : 8 ≤ W.bits := by cases W <;> decide

/-- Settles O11: the step by the low bit; its top bit is the one of the shift, XORed with the polynomial's when the low bit
is 1. -/
theorem bitstepRule : Obligations.BitstepRule := fun _ P e =>
  ⟨fun h => ⟨bitstep_of_lsb_true h, by simp [bitstep_of_lsb_true h, BitVec.msb_ushiftRight]⟩,
    fun h => ⟨bitstep_of_lsb_false h, by simp [bitstep_of_lsb_false h, BitVec.msb_ushiftRight]⟩⟩

/-- Settles O12: an entry is eight steps from its index, and the byte step from zero reads it at that index. -/
theorem tableEntries : Obligations.TableEntries := fun W P i => by
  refine ⟨?_, acc_zero (eight_le_bits W) (build P) i⟩
  rw [tabRead_build, BitVec.ofNat_toNat]
  rfl

/-! TBUILD. -/

/-- A row with every bit fixed is selected by the header word of its command and by no other (30_encoding R67). -/
theorem selects_of_encode_eq {p : BitVec 32} {i : Instr} (hp : encode i = p) : Selects p 0xFFFFFFFF#32 fun _ => i := by
  intro h
  have hmask : h &&& 0xFFFFFFFF#32 = h := BitVec.and_allOnes
  rw [hmask, ← hp]
  exact ⟨fun e => e ▸ decodeRow_encode i, fun e => (encode_of_decodeRow e).symm⟩

theorem portPoly_w32 (s : State) : portPoly .w32 s = view32.port s.ports.poly := BitVec.setWidth_eq_extractLsb' (by decide)

theorem portPoly_w64 (s : State) : portPoly .w64 s = view64.port s.ports.poly := BitVec.setWidth_eq s.ports.poly

/-- TBUILD at either width, with the polynomial as its unit has it. -/
theorem buildTable_eq {W : Width} {s : State} {P : BitVec W.bits} (hP : portPoly W s = P) :
    buildTable W s = .next (answered s (.ok (.table W (build P)))) := by
  subst hP; rfl

/-- Settles O30: TBUILD has a row of its own, and its answer is the state with one response more. -/
theorem tbuildReturnsTable : Obligations.TbuildReturnsTable :=
  ⟨⟨selects_of_encode_eq (by decide), fun s => buildTable_eq (portPoly_w32 s)⟩,
    ⟨selects_of_encode_eq (by decide), fun s => buildTable_eq (portPoly_w64 s)⟩⟩

end Sys2Proof.Machine
end

section
/-! PROOFS, family 41_table_cache. TGET, which answers the built table and leaves the cache as a use of that table leaves it
(R90, R94, R95); CFLUSH, which empties the cache (R96, R97). -/

namespace Sys2Proof.Machine

/-- TGET at either width, with the polynomial as its unit has it: on a sound unit the lookup is a build, whether the cache was
filled or not. -/
theorem getTable_of_sound {W : Width} {s : State} {P : BitVec W.bits} (hs : (s.unit W).Sound (Config.consts W))
    (hP : portPoly W s = P) :
    getTable W s = .next (answered (s.setUnit W { s.unit W with st := stAfter (Config.consts W) (s.unit W) P })
      (.ok (.table W (build P)))) := by
  obtain ⟨_, hst, _⟩ := hs
  subst hP
  rw [getTable, getOrBuild_of_sound hst]
  rfl

/-- CFLUSH at either width, in every state. -/
theorem flushCache_eq (W : Width) (s : State) :
    flushCache W s = .next (answered (s.setUnit W { s.unit W with st := none }) (.ok .nothing)) := rfl

/-- Settles O31: TGET has a row of its own, and on a sound unit it answers the built table through the cache. -/
theorem tgetReturnsCachedTable : Obligations.TgetReturnsCachedTable :=
  ⟨⟨selects_of_encode_eq (by decide), fun s hs => getTable_of_sound (W := .w32) hs (portPoly_w32 s)⟩,
    ⟨selects_of_encode_eq (by decide), fun s hs => getTable_of_sound (W := .w64) hs (portPoly_w64 s)⟩⟩

/-- Settles O32: CFLUSH has a row of its own, and the state it leaves is the one with the unit's shared table absent and one
response more. -/
theorem cflushEmptiesCache : Obligations.CflushEmptiesCache :=
  ⟨⟨selects_of_encode_eq (by decide), fun s => flushCache_eq .w32 s⟩,
    ⟨selects_of_encode_eq (by decide), fun s => flushCache_eq .w64 s⟩⟩

end Sys2Proof.Machine
end

section
/-! PROOFS, family 42_crc32_accumulator. The byte step and the loop over it (R100, R101; 43 R115, R116); the row of every
operation but COMP, by its fields (30_encoding R67); NEW, RESET, UPDB and VALUE at either width (R102 to R104, R107; 43 R117 to
R119, R122), with the table of a context looked up on a sound unit (41 R92). -/

namespace Sys2Proof

/-! The rows of the operations that have one row a width. -/

theorem Header.flagP_imm8 (h : BitVec 32) : Header.flagP (Header.imm8 h) = h.getLsbD 8 := by
  simp [Header.flagP, Header.imm8, -BitVec.getLsbD_eq_getElem]

theorem Header.flagS_imm8 (h : BitVec 32) : Header.flagS (Header.imm8 h) = h.getLsbD 9 := by
  simp [Header.flagS, Header.imm8, -BitVec.getLsbD_eq_getElem]

section
variable {w : Bool} {o : Operation}

/-- Outside COMP the immediate is accepted exactly when its fixed bits are zero (30_encoding R65 step 3, R67). -/
theorem checkImm_eq_none_iff (ho : o ≠ .comp) (b : BitVec 8) : checkImm o b = none ↔ b &&& o.immMask = 0 := by
  cases o with
  | comp => exact absurd rfl ho
  | new => simpa [checkImm, Operation.immMask] using flagsRest_eq_zero_iff b
  | updb => simp [checkImm, Operation.immMask]
  | reset | upd | upds | value | final | digest | tbuild | tget | cflush =>
    simp [-BitVec.reduceAllOnes, checkImm, Operation.immMask]

/-- Outside COMP the match of a row depends on no free field. -/
theorem selectRow_matchWord_of_ne_comp (ho : o ≠ .comp) (c b : BitVec 8) :
    (selectRow w o c b).matchWord = mkHeader w o.code 0 0 := by
  cases o with
  | comp => exact absurd rfl ho
  | new | reset | updb | upd | upds | value | final | digest | tbuild | tget | cflush => cases w <;> rfl

end

end Sys2Proof

namespace Sys2Proof.Machine

/-- Outside COMP the words of a row are those that decode to its operation with their own fields (30_encoding R67). -/
theorem selects_selectRow {w : Bool} {o : Operation} (ho : o ≠ .comp) {p m : BitVec 32} (hp : mkHeader w o.code 0 0 = p)
    (hm : headerMask o.ctxMask o.immMask = m) :
    Selects p m fun h => selectRow w o (Header.ctx h) (Header.imm8 h) := by
  intro h
  subst hp hm
  constructor
  · rw [and_headerMask_eq_mkHeader_iff]
    rintro ⟨h0, h1, rfl, hop, hctx, himm⟩
    exact decodeRow_eq_ok_iff.mpr
      ⟨h0, h1, o, hop, (checkImm_eq_none_iff ho _).mpr himm, checkCtx_eq_none_iff.mpr hctx, rfl⟩
  · intro hd
    have hmatch := and_maskWord_of_decodeRow hd
    rwa [selectRow_maskWord, selectRow_matchWord_of_ne_comp ho] at hmatch

/-- NEW's row gives it its two flags as bits of the word (30_encoding R61). -/
theorem selects_new {w : Bool} {p : BitVec 32} (hp : mkHeader w 0x0#4 0 0 = p) :
    Selects p 0xFF00FCFF#32 fun h =>
      (bif w then Instr.new64 else Instr.new32) (h.extractLsb' 16 8) (h.getLsbD 8) (h.getLsbD 9) := by
  intro h
  rw [selects_selectRow (o := .new) (by decide) hp (by decide) h]
  cases w <;> simp [selectRow, Header.flagP_imm8, Header.flagS_imm8, Header.ctx]

/-! The byte step and the loop. -/

section
variable {w : Nat}

/-- The low byte of a XOR with a byte (00_scope R8). -/
theorem accIndex_eq (hw : 8 ≤ w) (cur : BitVec w) (b : Byte) : accIndex cur b = cur.extractLsb' 0 8 ^^^ b := by
  rw [accIndex, BitVec.setWidth_xor, BitVec.setWidth_setWidth_of_le b hw, BitVec.setWidth_eq b,
    BitVec.setWidth_eq_extractLsb' hw]

/-- The shift by a byte is logical: it leaves a top byte of zeros. -/
theorem topByte_ushiftRight (cur : BitVec w) : (cur >>> 8).extractLsb' (w - 8) 8 = 0#8 := by
  ext k hk
  have hout : w ≤ 8 + (w - 8 + k) := by omega
  simp [BitVec.getLsbD_of_ge cur _ hout]

variable (T : Table w)

/-- The loop over a concatenation goes on from where it was. -/
theorem fold_append (cur : BitVec w) (X Y : List Byte) : fold T cur (X ++ Y) = fold T (fold T cur X) Y := by
  induction X generalizing cur with
  | nil => rfl
  | cons x X ih => exact ih (acc T cur x)

end

/-- Settles O17: the index is the low byte XOR the byte, and the shifted running value has no part in the top byte. -/
theorem byteStepRule : Obligations.ByteStepRule := by
  intro W T cur b
  have hstep : acc T cur b = tabRead T (cur.extractLsb' 0 8 ^^^ b) ^^^ (cur >>> 8) := by
    rw [acc, accIndex_eq (eight_le_bits W)]
  exact ⟨hstep, by rw [hstep, BitVec.extractLsb'_xor, topByte_ushiftRight, BitVec.xor_zero]⟩

/-- Settles O18: the last byte is a concatenation of one byte, over which the loop is one byte step. -/
theorem foldLoop : Obligations.FoldLoop := fun _ T cur X Y b =>
  ⟨rfl, fold_append T cur X [b], fold_append T cur X Y⟩

/-! The operands of NEW. -/

theorem portSeed_w32 (s : State) : portSeed .w32 s = view32.port s.ports.seed := BitVec.setWidth_eq_extractLsb' (by decide)

theorem portSeed_w64 (s : State) : portSeed .w64 s = view64.port s.ports.seed := BitVec.setWidth_eq s.ports.seed

/-! The commands at either width. -/

section
variable {w : Nat} {K : UnitConsts w} {u : CrcUnit w} {a : Acc w}

theorem tabOf_shared (h : a.tab = .shared) : tabOf K u a = getOrBuild K u K.canonPoly := by
  simp only [tabOf, h]

theorem tabOf_owned {T : Table w} (h : a.tab = .owned T) : tabOf K u a = (T, u) := by
  simp only [tabOf, h]

theorem Acc.sound_shared_iff (h : a.tab = .shared) : a.Sound K ↔ a.poly = K.canonPoly := by
  simp only [Acc.Sound, h]

theorem Acc.sound_owned_iff {T : Table w} (h : a.tab = .owned T) :
    a.Sound K ↔ a.poly ≠ K.canonPoly ∧ T = build a.poly := by
  simp only [Acc.Sound, h]

/-- On a sound unit the table of a sound context is the built one of its polynomial, and the cache is left as a use of that
table leaves it (41 R92). -/
theorem tabOf_of_sound (hst : ∀ T, u.st = some T → T = build K.canonPoly) (ha : a.Sound K) :
    tabOf K u a = (build a.poly, { u with st := stAfter K u a.poly }) := by
  cases htab : a.tab with
  | shared => rw [tabOf_shared htab, getOrBuild_of_sound hst, (Acc.sound_shared_iff htab).mp ha]
  | owned T =>
    obtain ⟨hP, hT⟩ := (Acc.sound_owned_iff htab).mp ha
    rw [tabOf_owned htab, hT, stAfter, if_neg hP]

end

section
variable {W : Width} {c : BitVec 8} {s : State} {a : Acc W.bits}

/-- The state in which context `c` of the unit `W` holds `a`, after a use of the table of `a`'s polynomial, answered OK. -/
def wroteAcc (W : Width) (c : BitVec 8) (a : Acc W.bits) (s : State) : State :=
  answered
    (s.setUnit W
      { bank := (s.unit W).bank.set c.toNat (some a), st := stAfter (Config.consts W) (s.unit W) a.poly })
    (.ok .nothing)

theorem newAcc_of_sound (hs : (s.unit W).Sound (Config.consts W)) (hc : c.toNat < (s.unit W).bank.length)
    {p sd : Bool} {P S : BitVec W.bits} (hP : operandPoly W p s = P) (hS : operandSeed W sd s = S) :
    newAcc W c p sd s = .next (wroteAcc W c
      { poly := P, seed := S, cur := S,
        tab := if P = (Config.consts W).canonPoly then .shared else .owned (build P) } s) := by
  obtain ⟨_, hst, _⟩ := hs
  subst hP hS
  rw [newAcc, if_pos hc]
  by_cases hcanon : operandPoly W p s = (Config.consts W).canonPoly
  · simp only [if_pos hcanon, getOrBuild_of_sound hst]
    rfl
  · simp only [if_neg hcanon, wroteAcc, stAfter]
    rfl

theorem resetAcc_configured (ha : (s.unit W).bank[c.toNat]? = some (some a)) :
    resetAcc W c s = .next (answered (s.setUnit W
      { s.unit W with bank := (s.unit W).bank.set c.toNat (some { a with cur := a.seed }) }) (.ok .nothing)) :=
  withAcc_configured ha

theorem accumulate_of_sound (hs : (s.unit W).Sound (Config.consts W))
    (ha : (s.unit W).bank[c.toNat]? = some (some a)) (X : List Byte) :
    accumulate W c a X s = .next (wroteAcc W c { a with cur := fold (build a.poly) a.cur X } s) := by
  obtain ⟨_, hst, hacc⟩ := hs
  rw [accumulate, tabOf_of_sound hst (hacc a (List.mem_of_getElem? ha))]
  rfl

theorem updateByte_of_sound (hs : (s.unit W).Sound (Config.consts W))
    (ha : (s.unit W).bank[c.toNat]? = some (some a)) (b : Byte) :
    updateByte W c b s = .next (wroteAcc W c { a with cur := fold (build a.poly) a.cur [b] } s) := by
  rw [updateByte, withAcc_configured ha, accumulate_of_sound hs ha]

theorem readValue_configured (ha : (s.unit W).bank[c.toNat]? = some (some a)) :
    readValue W c s = .next (answered s (.ok (.value W a.cur))) :=
  withAcc_configured ha

end

/-- Settles O19: NEW's row, and on a sound unit the context written whole, with the cache as a use of its table leaves it. -/
theorem newCreatesAccumulator : Obligations.NewCreatesAccumulator := by
  refine ⟨⟨selects_new (w := false) (by decide), ?_⟩, selects_new (w := true) (by decide), ?_⟩
  · intro s c p sd P S hs hc hP hS
    exact newAcc_of_sound (W := .w32) hs hc (by rw [hP, operandPoly, portPoly_w32]; rfl)
      (by rw [hS, operandSeed, portSeed_w32]; rfl)
  · intro s c p sd P S hs hc hP hS
    exact newAcc_of_sound (W := .w64) hs hc (by rw [hP, operandPoly, portPoly_w64]; rfl)
      (by rw [hS, operandSeed, portSeed_w64]; rfl)

/-- Settles O20: RESET's row; `withAcc` refuses an unconfigured context and goes on with a configured one. -/
theorem resetLoadsSeed : Obligations.ResetLoadsSeed :=
  ⟨⟨selects_selectRow (w := false) (o := .reset) (by decide) (by decide) (by decide),
      fun _ _ hc => withAcc_unconfigured (W := .w32) hc, fun _ _ _ ha => resetAcc_configured (W := .w32) ha⟩,
    selects_selectRow (w := true) (o := .reset) (by decide) (by decide) (by decide),
      fun _ _ hc => withAcc_unconfigured (W := .w64) hc, fun _ _ _ ha => resetAcc_configured (W := .w64) ha⟩

/-- Settles O21: UPDB's row; on a sound unit the loop over the one byte with the built table. -/
theorem updbAccumulatesByte : Obligations.UpdbAccumulatesByte :=
  ⟨⟨selects_selectRow (w := false) (o := .updb) (by decide) (by decide) (by decide),
      fun _ _ _ hc => withAcc_unconfigured (W := .w32) hc,
      fun _ _ b _ hs ha => updateByte_of_sound (W := .w32) hs ha b⟩,
    selects_selectRow (w := true) (o := .updb) (by decide) (by decide) (by decide),
      fun _ _ _ hc => withAcc_unconfigured (W := .w64) hc,
      fun _ _ b _ hs ha => updateByte_of_sound (W := .w64) hs ha b⟩

/-- Settles O24: VALUE's row; the raw running value, on which the mask of the 32-bit unit is the identity (10_state R23). -/
theorem valueReadsRunningValue : Obligations.ValueReadsRunningValue := by
  refine ⟨⟨selects_selectRow (w := false) (o := .value) (by decide) (by decide) (by decide),
      fun _ _ hc => withAcc_unconfigured (W := .w32) hc, fun s c a ha => ?_⟩,
    selects_selectRow (w := true) (o := .value) (by decide) (by decide) (by decide),
      fun _ _ hc => withAcc_unconfigured (W := .w64) hc, fun _ _ _ ha => readValue_configured (W := .w64) ha⟩
  have hmask : a.cur &&& 0xFFFFFFFF#32 = a.cur := BitVec.and_allOnes
  beta_reduce
  rw [hmask]
  exact readValue_configured (W := .w32) ha

end Sys2Proof.Machine
end


section
/-! PROOFS, family 44_compute. The three COMP commands are one operation, at a polynomial and a seed; its answer with an absent
buffer and with a present one on a sound unit (44 R130), and their rows (R131 to R136), once for either width. -/

open Sys2Proof.Claims

namespace Sys2Proof.Machine

/-! The view of a unit by its width, so that a rule need not be proved for each of the two. -/

/-- The view of the unit of a width; a port is narrowed to the unit's width. -/
def viewOf (W : Width) : UnitView W where
  get := fun s => s.unit W
  put := fun s => s.setUnit W
  consts := Config.consts W
  port := fun v => v.setWidth W.bits

theorem view32_eq_viewOf : view32 = viewOf .w32 :=
  congrArg (UnitView.mk _ _ _) (funext fun _ => (BitVec.setWidth_eq_extractLsb' (by decide)).symm)

theorem view64_eq_viewOf : view64 = viewOf .w64 :=
  congrArg (UnitView.mk _ _ _) (funext fun v => (BitVec.setWidth_eq v).symm)

/-! The operation of the three commands. -/

section
variable {W : Width} {s : State} {P S : BitVec W.bits}

/-- The buffer is asked for before the table, so an absent one leaves the cache too (60_exceptions R151). -/
theorem computeOn_absent (hb : s.ports.buf = none) :
    computeOn W P S s = .next (answered s (.fault (.invalidArgument .bufferAbsent))) :=
  withBuffer_absent hb

/-- On a sound unit the table is the built one, and the cache is left as a use of that table leaves it. -/
theorem computeOn_of_sound {B : List Byte} (hs : (s.unit W).Sound (Config.consts W)) (hb : s.ports.buf = some B) :
    computeOn W P S s =
      .next (answered (s.setUnit W { s.unit W with st := stAfter (Config.consts W) (s.unit W) P })
        (.ok (.value W (fold (build P) S B ^^^ (Config.consts W).xorOut)))) := by
  obtain ⟨_, hst, _⟩ := hs
  rw [computeOn, withBuffer_present hb, getOrBuild_of_sound hst]
  rfl

end

/-- A command that is `computeOn` at `P s` and `S s`, with a row of its own, obeys the rule of the compute commands. -/
theorem computeRule_of_exec_eq {W : Width} {p : BitVec 32} {i : Instr} {P S : State → BitVec W.bits} (hp : encode i = p)
    (he : ∀ s, exec i s = computeOn W (P s) (S s) s) : ComputeRule (viewOf W) p i P S :=
  ⟨selects_of_encode_eq hp, fun s hb => (he s).trans (computeOn_absent hb),
    fun s _ hs hb => (he s).trans (computeOn_of_sound hs hb)⟩

/-- Settles O27: COMP1 is `computeOn` at the unit's constants, which are the literals of R131 and R134. -/
theorem compOneUsesDefaults : Obligations.CompOneUsesDefaults := by
  rw [Obligations.CompOneUsesDefaults, view32_eq_viewOf, view64_eq_viewOf]
  exact ⟨computeRule_of_exec_eq (by decide) fun _ => rfl, computeRule_of_exec_eq (by decide) fun _ => rfl⟩

/-- Settles O28: COMP2 is `computeOn` at the canonical polynomial and the seed port (R132, R135). -/
theorem compTwoUsesSeed : Obligations.CompTwoUsesSeed := by
  rw [Obligations.CompTwoUsesSeed, view32_eq_viewOf, view64_eq_viewOf]
  exact ⟨computeRule_of_exec_eq (by decide) fun _ => rfl, computeRule_of_exec_eq (by decide) fun _ => rfl⟩

/-- Settles O29: COMP3 is `computeOn` at the polynomial port and the seed port (R133, R136). -/
theorem compThreeUsesPolynomialAndSeed : Obligations.CompThreeUsesPolynomialAndSeed := by
  rw [Obligations.CompThreeUsesPolynomialAndSeed, view32_eq_viewOf, view64_eq_viewOf]
  exact ⟨computeRule_of_exec_eq (by decide) fun _ => rfl, computeRule_of_exec_eq (by decide) fun _ => rfl⟩

end Sys2Proof.Machine
end

section
/-! PROOFS, family 45_finalization. The finalizer and the serializer at the two widths (45 R140, R141); FINAL and DIGEST are one
reading of a configured context, at an answer computed from its running value (R142 to R145). -/

open Sys2Proof.Claims

namespace Sys2Proof.Machine

/-! The pure functions. -/

/-- `XOROUT_32` is all ones, so finalization complements (R140). -/
@[simp] theorem fin_consts32 (v : BitVec 32) : fin Config.consts32 v = ~~~v := BitVec.xor_allOnes

/-- `XOROUT_64` is zero, so finalization is the identity (R140; log 9). -/
@[simp] theorem fin_consts64 (v : BitVec 64) : fin Config.consts64 v = v := BitVec.xor_zero

/-- The offsets `24 - 8 * k` of the four bytes, written out (R141). -/
theorem be_w32 (v : BitVec 32) :
    be v = [v.extractLsb' 24 8, v.extractLsb' 16 8, v.extractLsb' 8 8, v.extractLsb' 0 8] := rfl

/-- The offsets `56 - 8 * k` of the eight bytes, written out (R141). -/
theorem be_w64 (v : BitVec 64) :
    be v = [v.extractLsb' 56 8, v.extractLsb' 48 8, v.extractLsb' 40 8, v.extractLsb' 32 8,
      v.extractLsb' 24 8, v.extractLsb' 16 8, v.extractLsb' 8 8, v.extractLsb' 0 8] := rfl

/-- Settles O33: the finalizer by its mask, the serializer by its offsets, at each width. -/
theorem finalizeAndSerialize : Obligations.FinalizeAndSerialize := ⟨fin_consts32, fin_consts64, be_w32, be_w64⟩

/-! The commands. -/

/-- A command that reads its context through `withAcc` and answers `f` of the running value obeys the rule of the reading
commands, for any `res` that `f` equals. -/
theorem readRule_of_exec_eq {W : Width} {p m : BitVec 32} {i : BitVec 8 → Instr} {f res : BitVec W.bits → Result}
    (hsel : Selects p m fun h => i (h.extractLsb' 16 8)) (hres : ∀ v, f v = res v)
    (he : ∀ c s, exec (i c) s = withAcc W c s fun a => .next (s.respond (.ok (f a.cur)))) :
    ReadRule (viewOf W) p m i res := by
  refine ⟨hsel, fun s c hc => (he c s).trans (withAcc_unconfigured hc), fun s c a ha => ?_⟩
  rw [he, withAcc_configured ha, hres]
  rfl

/-- Settles O25: FINAL answers the finalized running value, which is the complement at 32 bits and `CUR` itself at 64. -/
theorem finalReadsChecksum : Obligations.FinalReadsChecksum := by
  rw [Obligations.FinalReadsChecksum, view32_eq_viewOf, view64_eq_viewOf]
  exact ⟨readRule_of_exec_eq (selects_selectRow (w := false) (o := .final) (by decide) (by decide) (by decide))
      (fun v => congrArg (Result.value .w32) (fin_consts32 v)) fun _ _ => rfl,
    readRule_of_exec_eq (selects_selectRow (w := true) (o := .final) (by decide) (by decide) (by decide))
      (fun v => congrArg (Result.value .w64) (fin_consts64 v)) fun _ _ => rfl⟩

/-- Settles O26: DIGEST answers the bytes of the finalized running value, which are those of its complement at 32 bits and of
`CUR` itself at 64. -/
theorem digestReadsBytes : Obligations.DigestReadsBytes := by
  rw [Obligations.DigestReadsBytes, view32_eq_viewOf, view64_eq_viewOf]
  exact ⟨readRule_of_exec_eq (selects_selectRow (w := false) (o := .digest) (by decide) (by decide) (by decide))
      (fun v => congrArg Result.digest ((congrArg be (fin_consts32 v)).trans (be_w32 _))) fun _ _ => rfl,
    readRule_of_exec_eq (selects_selectRow (w := true) (o := .digest) (by decide) (by decide) (by decide))
      (fun v => congrArg Result.digest ((congrArg be (fin_consts64 v)).trans (be_w64 _))) fun _ _ => rfl⟩

end Sys2Proof.Machine
end

section
/-! PROOFS, family 60_exceptions. Which fault a command's execution is answered with, said once for all commands in the order
of R154, and from it the fault of an issued command; a header word that selects no command (R152). -/

namespace Sys2Proof

/-- Only a command with a buffer takes a slice of it (60_exceptions R150). -/
theorem Instr.takesSlice_of_takesBuffer_false {i : Instr} (h : i.takesBuffer = false) : i.takesSlice = false := by
  cases i <;> simp_all [Instr.takesBuffer, Instr.takesSlice]

end Sys2Proof

namespace Sys2Proof.Machine

/-! The fault of a response, and the fault an answer reports. -/

/-- The fault a response carries, if it carries one (60_exceptions R150). -/
def Response.fault? : Response → Option CmdFault
  | .ok _ => none
  | .fault f => some f

theorem Response.fault?_eq_some_iff {r : Response} {f : CmdFault} : r.fault? = some f ↔ r = .fault f := by
  cases r <;> simp [Response.fault?]

/-- The answer is a next state with one response more, and the fault of that response is `o`. -/
def Reports (o : Option CmdFault) (s : State) (A : Answer) : Prop :=
  ∃ t r, A = .next t ∧ t.out = r :: s.out ∧ r.fault? = o

theorem Reports.out_iff {o : Option CmdFault} {s t : State} {f : CmdFault} (h : Reports o s (.next t)) :
    t.out = .fault f :: s.out ↔ o = some f := by
  obtain ⟨_, r, ⟨⟩, hr, rfl⟩ := h
  rw [hr, Response.fault?_eq_some_iff]
  simp

/-- The faults of R151 alone, in the order of R154: what is left for a command whose context, if it names one, is in the bank and configured. -/
def argumentFault (i : Instr) (s : State) : Option CmdFault :=
  if bufferAbsent i s then some (.invalidArgument .bufferAbsent)
  else if sliceOutOfRange i s then some (.invalidArgument .sliceRange)
  else none

section
variable {i : Instr} {s : State} {c : BitVec 8}

/-! The conditions of the faults by what the context is. -/

theorem State.cfg_eq (s : State) (W : Width) (c : Nat) : s.cfg W c = (s.unit W).cfg c := by cases W <;> rfl

theorem State.nctx_eq (s : State) (W : Width) : s.nctx W = (s.unit W).bank.length := by cases W <;> rfl

theorem ctxOutOfRange_iff (hc : i.context = some c) :
    ctxOutOfRange i s = true ↔ (s.unit i.unit).bank[c.toNat]? = none := by
  simp [ctxOutOfRange, hc, State.nctx_eq]

theorem faultOf_out_of_range (hc : i.context = some c) (h : (s.unit i.unit).bank[c.toNat]? = none) :
    faultOf i s = some (.illegalCommand .ctxRange) :=
  if_pos ((ctxOutOfRange_iff hc).mpr h)

/-- With its context in the bank a command meets NotConfigured first, and then the faults of R151 (R154). -/
theorem faultOf_in_range {x : Ctx i.unit.bits} (hc : i.context = some c)
    (h : (s.unit i.unit).bank[c.toNat]? = some x) :
    faultOf i s = if unconfigured i s then some .notConfigured else argumentFault i s :=
  if_neg (by simp [ctxOutOfRange_iff hc, h])

theorem faultOf_unconfigured (hc : i.context = some c) (hn : i.isNew = false)
    (h : (s.unit i.unit).bank[c.toNat]? = some none) : faultOf i s = some .notConfigured := by
  rw [faultOf_in_range hc h, if_pos (by simp [unconfigured, hc, hn, State.cfg_eq, CrcUnit.cfg, h])]

theorem faultOf_configured {a : Acc i.unit.bits} (hc : i.context = some c)
    (h : (s.unit i.unit).bank[c.toNat]? = some (some a)) : faultOf i s = argumentFault i s := by
  rw [faultOf_in_range hc h, if_neg (by simp [unconfigured, hc, State.cfg_eq, CrcUnit.cfg, h])]

/-- NEW needs a context of the bank, and not a configured one (R153). -/
theorem faultOf_of_isNew (hc : i.context = some c) (hn : i.isNew = true)
    (h : c.toNat < (s.unit i.unit).bank.length) : faultOf i s = argumentFault i s := by
  rw [faultOf_in_range hc (List.getElem?_eq_getElem h), if_neg (by simp [unconfigured, hc, hn])]

theorem faultOf_of_no_context (hc : i.context = none) : faultOf i s = argumentFault i s := by
  simp [faultOf, argumentFault, ctxOutOfRange, unconfigured, hc]

/-! The conditions of R151 by what the ports carry. -/

theorem sliceOutOfRange_of_takesSlice_false (h : i.takesSlice = false) : sliceOutOfRange i s = false := by
  unfold sliceOutOfRange
  split <;> simp [h]

theorem argumentFault_of_takesBuffer_false (h : i.takesBuffer = false) : argumentFault i s = none := by
  simp [argumentFault, bufferAbsent, h, sliceOutOfRange_of_takesSlice_false (Instr.takesSlice_of_takesBuffer_false h)]

theorem argumentFault_absent (h : i.takesBuffer = true) (hb : s.ports.buf = none) :
    argumentFault i s = some (.invalidArgument .bufferAbsent) := by
  simp [argumentFault, bufferAbsent, h, hb]

theorem argumentFault_present {B : List Byte} (hb : s.ports.buf = some B) :
    argumentFault i s =
      if i.takesSlice && decide (B.length < s.ports.off + s.ports.len) then some (.invalidArgument .sliceRange)
      else none := by
  simp [argumentFault, bufferAbsent, sliceOutOfRange, hb]

end

/-! What each shared operation reports. -/

section
variable {i : Instr} {W : Width} {s : State} {c : BitVec 8}

theorem reports_raise (f : CmdFault) : Reports (some f) s (.next (s.raise f)) := ⟨_, _, rfl, rfl, rfl⟩

theorem reports_respond (r : Result) : Reports none s (.next (s.respond (.ok r))) := ⟨_, _, rfl, rfl, rfl⟩

theorem reports_setUnit_respond (u : CrcUnit W.bits) (r : Result) :
    Reports none s (.next ((s.setUnit W u).respond (.ok r))) :=
  ⟨_, .ok r, rfl, by simp, rfl⟩

/-- A command on a context reports what `faultOf` finds first, if what it goes on with reports the faults of R151. -/
theorem reports_withAcc {go : Acc W.bits → Answer} (hW : i.unit = W) (hc : i.context = some c) (hn : i.isNew = false)
    (h : ∀ a, Reports (argumentFault i s) s (go a)) : Reports (faultOf i s) s (withAcc W c s go) := by
  subst hW
  obtain ⟨hb, e⟩ | ⟨hb, e⟩ | ⟨a, hb, e⟩ := withAcc_cases i.unit c s go <;> rw [e]
  · rw [faultOf_out_of_range hc hb]; exact reports_raise _
  · rw [faultOf_unconfigured hc hn hb]; exact reports_raise _
  · rw [faultOf_configured hc hb]; exact h a

/-- A command with a buffer reports an absent one; with a present one only the slice remains to be checked. -/
theorem reports_withBuffer {go : List Byte → Answer} (ht : i.takesBuffer = true)
    (h : ∀ B, s.ports.buf = some B → Reports (argumentFault i s) s (go B)) :
    Reports (argumentFault i s) s (withBuffer s go) := by
  rcases hb : s.ports.buf with _ | B
  · rw [withBuffer_absent hb, argumentFault_absent ht hb]; exact reports_raise _
  · rw [withBuffer_present hb]; exact h B hb

/-- A command that takes its buffer whole has no fault left once the buffer is present. -/
theorem reports_withBuffer_whole {go : List Byte → Answer} (ht : i.takesBuffer = true) (hs : i.takesSlice = false)
    (h : ∀ B, Reports none s (go B)) : Reports (argumentFault i s) s (withBuffer s go) :=
  reports_withBuffer ht fun B hb => by
    rw [argumentFault_present hb, hs]
    exact h B

theorem reports_withSlice {go : List Byte → Answer} {B : List Byte} (hb : s.ports.buf = some B)
    (hs : i.takesSlice = true) (h : ∀ X, Reports none s (go X)) :
    Reports (argumentFault i s) s (withSlice s B go) := by
  rw [argumentFault_present hb, hs]
  rcases Nat.lt_or_ge B.length (s.ports.off + s.ports.len) with hB | hB
  · rw [withSlice_out_of_range hB, if_pos (by simpa using hB)]; exact reports_raise _
  · rw [withSlice_in_range hB, if_neg (by simpa using hB)]; exact h _

theorem reports_accumulate (a : Acc W.bits) (X : List Byte) : Reports none s (accumulate W c a X s) :=
  reports_setUnit_respond _ _

/-! What each command reports, at either width. -/

theorem reports_newAcc (hW : i.unit = W) (hc : i.context = some c) (hn : i.isNew = true) (ht : i.takesBuffer = false)
    (p sd : Bool) : Reports (faultOf i s) s (newAcc W c p sd s) := by
  subst hW
  unfold newAcc
  split
  · next hlt =>
    rw [faultOf_of_isNew hc hn hlt, argumentFault_of_takesBuffer_false ht]
    exact reports_setUnit_respond _ _
  · next hge =>
    rw [faultOf_out_of_range hc (List.getElem?_eq_none (Nat.not_lt.mp hge))]
    exact reports_raise _

/-- RESET, UPDB, VALUE, FINAL and DIGEST: a configured context is all they need. -/
theorem reports_withAcc_ok {go : Acc W.bits → Answer} (hW : i.unit = W) (hc : i.context = some c)
    (hn : i.isNew = false) (ht : i.takesBuffer = false) (h : ∀ a, Reports none s (go a)) :
    Reports (faultOf i s) s (withAcc W c s go) :=
  reports_withAcc hW hc hn fun a => by
    rw [argumentFault_of_takesBuffer_false ht]
    exact h a

theorem reports_updateBuffer (hW : i.unit = W) (hc : i.context = some c) (hn : i.isNew = false)
    (ht : i.takesBuffer = true) (hs : i.takesSlice = false) : Reports (faultOf i s) s (updateBuffer W c s) :=
  reports_withAcc hW hc hn fun a => reports_withBuffer_whole ht hs (reports_accumulate a)

theorem reports_updateSlice (hW : i.unit = W) (hc : i.context = some c) (hn : i.isNew = false)
    (ht : i.takesBuffer = true) (hs : i.takesSlice = true) : Reports (faultOf i s) s (updateSlice W c s) :=
  reports_withAcc hW hc hn fun a => reports_withBuffer ht fun _ hb => reports_withSlice hb hs (reports_accumulate a)

theorem reports_computeOn (hc : i.context = none) (ht : i.takesBuffer = true) (hs : i.takesSlice = false)
    (P S : BitVec W.bits) : Reports (faultOf i s) s (computeOn W P S s) := by
  rw [faultOf_of_no_context hc]
  exact reports_withBuffer_whole ht hs fun _ => reports_setUnit_respond _ _

/-- TBUILD, TGET and CFLUSH: they name no context and take no buffer, and no fault is theirs. -/
theorem reports_table {A : Answer} (hc : i.context = none) (ht : i.takesBuffer = false) (h : Reports none s A) :
    Reports (faultOf i s) s A := by
  rwa [faultOf_of_no_context hc, argumentFault_of_takesBuffer_false ht]

end

/-- Every command, in every state, is answered with the fault that `faultOf` finds first, and OK if it finds none. -/
theorem exec_reports (i : Instr) (s : State) : Reports (faultOf i s) s (exec i s) := by
  cases i with
  | new32 c p sd | new64 c p sd => exact reports_newAcc rfl rfl rfl rfl p sd
  | reset32 c | reset64 c => exact reports_withAcc_ok rfl rfl rfl rfl fun _ => reports_setUnit_respond _ _
  | updb32 c b | updb64 c b => exact reports_withAcc_ok rfl rfl rfl rfl fun a => reports_accumulate a [b]
  | upd32 c | upd64 c => exact reports_updateBuffer rfl rfl rfl rfl rfl
  | upds32 c | upds64 c => exact reports_updateSlice rfl rfl rfl rfl rfl
  | value32 c | final32 c | digest32 c | value64 c | final64 c | digest64 c =>
    exact reports_withAcc_ok rfl rfl rfl rfl fun _ => reports_respond _
  | comp1_32 | comp2_32 | comp3_32 | comp1_64 | comp2_64 | comp3_64 => exact reports_computeOn rfl rfl rfl _ _
  | tbuild32 | tbuild64 => exact reports_table rfl rfl (reports_respond _)
  | tget32 | tget64 | cflush32 | cflush64 => exact reports_table rfl rfl (reports_setUnit_respond _ _)

/-! An issued command. -/

section
variable {s t : State} {c : Command} {rest : List Event}

theorem step_of_decode_error {e : IllegalInfo} (hp : s.pending = .issue c :: rest)
    (hd : s.decodeHeader c.header = .error e) : step s = .next ((s.take c rest).raise (.illegalCommand e)) := by
  simp [step, hp, hd]

/-- A step of a decoded command that answers a next state is the command's execution. -/
theorem exec_of_step {i : Instr} (hp : s.pending = .issue c :: rest) (hd : s.decodeHeader c.header = .ok i)
    (h : step s = .next t) : exec i (s.take c rest) = .next t := by
  have hstep : step s = if beyondPorts i (s.take c rest) then .fault .unpresentable else exec i (s.take c rest) := by
    simp [step, hp, hd]
  rw [hstep] at h
  split at h
  · cases h
  · exact h

/-- The step of an issued command reports the fault that `commandFault` finds first: the header's, then the command's with its
operands on the ports. -/
theorem step_reports (hp : s.pending = .issue c :: rest) (h : step s = .next t) :
    Reports (commandFault c s) s (.next t) := by
  unfold commandFault
  split
  · next e hd =>
    rw [← h, step_of_decode_error hp hd]
    exact reports_raise _
  · next i hd =>
    rw [← exec_of_step hp hd h]
    exact exec_reports i (s.take c rest)

end

/-- Settles O7: the decoder's refusal is answered on the taken state. -/
theorem illegalCommandAnswered : Obligations.IllegalCommandAnswered := fun _ _ _ _ hp hd => step_of_decode_error hp hd

/-- Settles O37: a step and an execution report the first fault in the order of R154; the execution does so out of the bank's
range too. -/
theorem faultPriority : Obligations.FaultPriority :=
  ⟨fun _ _ _ _ _ hp h => (step_reports hp h).out_iff, fun i s _ _ _ h => (h ▸ exec_reports i s).out_iff⟩

end Sys2Proof.Machine
end

section
/-! PROOFS, family other: encoding and step. The round trip of 30_encoding R65, which the lemmas of the family
30_encoding give both ways; what a step does with each kind of pending event (20_memory R50). -/

open Sys2Proof.Claims

namespace Sys2Proof

theorem decodeRow_of_encode_eq {h : BitVec 32} {i : Instr} (e : encode i = h) : decodeRow h = .ok i := e ▸ decodeRow_encode i

/-- The block accepts the header word of a command that is well formed for it. -/
theorem decode_encode {i : Instr} {n32 n64 : Nat} (hwf : i.wf n32 n64 = true) : decode n32 n64 (encode i) = .ok i := by
  rw [decode_of_decodeRow_ok (decodeRow_encode i), if_pos hwf]

end Sys2Proof

namespace Sys2Proof.Machine

/-- Settles O2: `decodeRow` undoes `encode` on every command, and the context range is the check of `Instr.wf`. -/
theorem decodeOfEncode : Obligations.DecodeOfEncode := fun i => ⟨decodeRow_encode i, fun _ _ hwf => decode_encode hwf⟩

/-- Settles O3: an accepted word has zero reserved fields, so the row selected holds all of it. -/
theorem encodeOfDecode : Obligations.EncodeOfDecode := fun _ _ hi => encode_of_decodeRow hi

/-- Settles O1: each word is the header word of the command beside it. -/
theorem specWordsDecode : Obligations.SpecWordsDecode :=
  ⟨decodeRow_of_encode_eq (by decide), decodeRow_of_encode_eq (by decide), decodeRow_of_encode_eq (by decide),
    decodeRow_of_encode_eq (by decide), decodeRow_of_encode_eq (by decide), decodeRow_of_encode_eq (by decide),
    decodeRow_of_encode_eq (by decide), decodeRow_of_encode_eq (by decide), decodeRow_of_encode_eq (by decide),
    decodeRow_of_encode_eq (by decide)⟩

/-! The step, by the event that is pending. -/

section
variable {s : State} {c : Command} {i : Instr} {rest : List Event}

theorem step_of_idle (hp : s.pending = []) : step s = .next s := by
  simp only [step, hp]

theorem step_of_powerOn {o : Option Command} (hp : s.pending = .powerOn o :: rest) :
    step s = .next (s.powerOn o rest) := by
  simp only [step, hp]

theorem step_of_decode_ok (hp : s.pending = .issue c :: rest) (hd : s.decodeHeader c.header = .ok i) :
    step s = if beyondPorts i (s.take c rest) then .fault .unpresentable else exec i (s.take c rest) := by
  simp only [step, hp, hd]

/-- A decoded command whose buffer, if it takes one, is one the block can be given is executed. -/
theorem step_of_fits (hp : s.pending = .issue c :: rest) (hd : s.decodeHeader c.header = .ok i)
    (hb : i.takesBuffer = true → ∀ B, c.ports.buf = some B → B.length < 2 ^ s.lenw) :
    step s = exec i (s.take c rest) := by
  have hports : beyondPorts i (s.take c rest) = false := by
    cases ht : i.takesBuffer with
    | false => exact beyondPorts_of_takes_none ht
    | true => exact beyondPorts_of_fits (hb ht)
  simp [step_of_decode_ok hp hd, hports]

/-- Taking a command changes no context. -/
theorem unconfigured_take (i : Instr) (s : State) (c : Command) (rest : List Event) :
    unconfigured i (s.take c rest) = unconfigured i s := rfl

theorem bufferTooLong_iff : s.bufferTooLong = true ↔ ∃ B, s.ports.buf = some B ∧ 2 ^ s.lenw ≤ B.length := by
  unfold State.bufferTooLong
  cases s.ports.buf <;> simp

/-- When a command issued is beyond the ports of the block (92 D3; log 6). -/
theorem beyondPorts_take_iff : beyondPorts i (s.take c rest) = true ↔
    i.takesBuffer = true ∧ unconfigured i s = false ∧ ∃ B, c.ports.buf = some B ∧ 2 ^ s.lenw ≤ B.length := by
  simp [beyondPorts, unconfigured_take, bufferTooLong_iff, and_assoc]

/-- Every command answers a next state. -/
theorem exec_eq_next (i : Instr) (s : State) : ∃ t, exec i s = .next t := by
  obtain ⟨u, r, e, _⟩ := exec_effect i s
  exact ⟨_, e⟩

/-- A step answers a next state, or the command taken is beyond the ports and the model stops. -/
theorem step_next_or_beyond (s : State) : (∃ t, step s = .next t) ∨ (step s = .fault .unpresentable ∧
    ∃ c rest i, s.pending = .issue c :: rest ∧ s.decodeHeader c.header = .ok i ∧
      beyondPorts i (s.take c rest) = true) := by
  obtain ⟨_, e⟩ | ⟨_, _, _, e⟩ | ⟨_, _, _, _, _, e⟩ | ⟨c, rest, i, hp, hd, hb, e⟩ | ⟨c, rest, i, _, _, _, e⟩ :=
    step_cases s
  · exact .inl ⟨_, e⟩
  · exact .inl ⟨_, e⟩
  · exact .inl ⟨_, e⟩
  · exact .inr ⟨e, c, rest, i, hp, hd, hb⟩
  · exact .inl (e ▸ exec_eq_next i (s.take c rest))

/-- The model stops exactly on a command that is beyond the ports. -/
theorem step_eq_fault_iff : (∃ f, step s = .fault f) ↔ ∃ c rest i, s.pending = .issue c :: rest ∧
    s.decodeHeader c.header = .ok i ∧ beyondPorts i (s.take c rest) = true := by
  constructor
  · rintro ⟨f, hf⟩
    obtain ⟨t, e⟩ | ⟨_, hbeyond⟩ := step_next_or_beyond s
    · simp [e] at hf
    · exact hbeyond
  · rintro ⟨c, rest, i, hp, hd, hb⟩
    exact ⟨.unpresentable, by rw [step_of_decode_ok hp hd, if_pos hb]⟩

theorem step_ne_refused (s : State) (q : Refusal) : step s ≠ .refused q := by
  intro h
  obtain ⟨t, e⟩ | ⟨e, _⟩ := step_next_or_beyond s <;> simp [e] at h

end

/-- Settles O6: a well-formed command that decodes is accepted by the block, and its buffer fits. -/
theorem stepRunsDecodedCommand : Obligations.StepRunsDecodedCommand := by
  intro s c rest i hp hi hwf hb
  have hd : s.decodeHeader c.header = .ok i := by
    rw [State.decodeHeader, decode_of_decodeRow_ok hi, if_pos hwf]
  exact step_of_fits hp hd hb

/-- Settles O8: of the ways a step can go only the command beyond the ports is a stop. -/
theorem idleAndUnpresentable : Obligations.IdleAndUnpresentable := by
  refine ⟨fun s hp => step_of_idle hp, fun s => ?_, step_ne_refused⟩
  simp only [step_eq_fault_iff, beyondPorts_take_iff]
  constructor
  · rintro ⟨c, rest, i, hp, hd, ht, hu, B, hB, hlen⟩
    exact ⟨c, rest, i, B, hp, hd, ht, hu, hB, hlen⟩
  · rintro ⟨c, rest, i, B, hp, hd, ht, hu, hB, hlen⟩
    exact ⟨c, rest, i, hp, hd, ht, hu, B, hB, hlen⟩

/-- Settles O10: the state of a reset block, with the fields the reset does not touch. -/
theorem powerOnOfRunningBlock : Obligations.PowerOnOfRunningBlock := fun _ _ _ hp =>
  ⟨_, step_of_powerOn hp, rfl, rfl, rfl, rfl, rfl⟩

end Sys2Proof.Machine
end

section
/-! PROOFS, family other: what a command does. Every command is answered with a fault that writes nothing or with OK and
at most its own unit replaced, whose shared table changes as 41 R90 to R97 say; from it the frames of a command
(20_memory R51, 60 R155 to R161), and the invariant that every table is the built one of its polynomial (10_state R24 to
R27). -/

open Sys2Proof.Claims

namespace Sys2Proof

/-- The command empties the shared table of its unit (41 R96, R97). -/
def Instr.IsFlush (i : Instr) : Prop := i = .cflush32 ∨ i = .cflush64

end Sys2Proof

namespace Sys2Proof.Machine

/-! A property of an answer is carried through the checks of a command if the faults have it. -/

section
variable {W : Width} {c : BitVec 8} {s : State} {Q : Answer → Prop} (hraise : ∀ f, Q (.next (s.raise f)))
include hraise

theorem withAcc_induction {go : Acc W.bits → Answer}
    (h : ∀ a, (s.unit W).bank[c.toNat]? = some (some a) → Q (go a)) : Q (withAcc W c s go) := by
  obtain ⟨_, e⟩ | ⟨_, e⟩ | ⟨a, ha, e⟩ := withAcc_cases W c s go <;> rw [e]
  · exact hraise _
  · exact hraise _
  · exact h a ha

theorem withBuffer_induction {go : List Byte → Answer} (h : ∀ B, s.ports.buf = some B → Q (go B)) :
    Q (withBuffer s go) := by
  rcases hb : s.ports.buf with _ | B
  · rw [withBuffer_absent hb]; exact hraise _
  · rw [withBuffer_present hb]; exact h B hb

theorem withSlice_induction {go : List Byte → Answer} {B : List Byte} (h : ∀ X, Q (go X)) : Q (withSlice s B go) := by
  rcases Nat.lt_or_ge B.length (s.ports.off + s.ports.len) with hB | hB
  · rw [withSlice_out_of_range hB]; exact hraise _
  · rw [withSlice_in_range hB]; exact h _

end

/-! What a command completes with. -/

/-- The answer is a fault with nothing written, or OK with the unit `W` replaced, in which the shared table has
changed as it may. -/
def Completes (W : Width) (flush : Prop) (s : State) (A : Answer) : Prop :=
  (∃ f, A = .next (s.raise f)) ∨
  ∃ u r, A = .next ((s.setUnit W u).respond (.ok r)) ∧ CacheChange (Config.consts W) flush (s.unit W) u

section
variable {W : Width} {flush : Prop} {c : BitVec 8} {s : State}

theorem completes_raise (f : CmdFault) : Completes W flush s (.next (s.raise f)) := .inl ⟨f, rfl⟩

theorem completes_respond (r : Result) : Completes W flush s (.next (s.respond (.ok r))) :=
  .inr ⟨s.unit W, r, by rw [setUnit_unit], .inl rfl⟩

theorem completes_setUnit {u : CrcUnit W.bits} (h : CacheChange (Config.consts W) flush (s.unit W) u) (r : Result) :
    Completes W flush s (.next ((s.setUnit W u).respond (.ok r))) :=
  .inr ⟨u, r, rfl, h⟩

/-- A lookup fills an empty shared table or leaves it (41 R90). -/
theorem cacheChange_getOrBuild {w : Nat} {K : UnitConsts w} {u : CrcUnit w} {P : BitVec w} :
    CacheChange K flush u (getOrBuild K u P).2 := by
  obtain ⟨_, e⟩ | ⟨_, _, _, e⟩ | ⟨_, hn, e⟩ := getOrBuild_cases K u P <;> rw [e]
  · exact .inl rfl
  · exact .inl rfl
  · exact .inr (.inl ⟨hn, rfl⟩)

theorem cacheChange_tabOf {w : Nat} {K : UnitConsts w} {u : CrcUnit w} {a : Acc w} :
    CacheChange K flush u (tabOf K u a).2 := by
  cases htab : a.tab with
  | shared => rw [tabOf_shared htab]; exact cacheChange_getOrBuild
  | owned T => rw [tabOf_owned htab]; exact .inl rfl

theorem completes_accumulate (a : Acc W.bits) (X : List Byte) : Completes W flush s (accumulate W c a X s) :=
  .inr ⟨_, _, rfl, cacheChange_tabOf⟩

theorem completes_newAcc (p sd : Bool) : Completes W flush s (newAcc W c p sd s) := by
  unfold newAcc
  split
  · refine completes_setUnit ?_ _
    split
    · exact cacheChange_getOrBuild
    · exact .inl rfl
  · exact completes_raise _

theorem completes_updateBuffer : Completes W flush s (updateBuffer W c s) :=
  withAcc_induction completes_raise fun a _ => withBuffer_induction completes_raise fun B _ => completes_accumulate a B

theorem completes_updateSlice : Completes W flush s (updateSlice W c s) :=
  withAcc_induction completes_raise fun a _ => withBuffer_induction completes_raise fun _ _ =>
    withSlice_induction completes_raise fun X => completes_accumulate a X

theorem completes_computeOn (P S : BitVec W.bits) : Completes W flush s (computeOn W P S s) :=
  withBuffer_induction completes_raise fun _ _ => completes_setUnit cacheChange_getOrBuild _

end

/-- What every command in every state completes with. -/
theorem exec_completes (i : Instr) (s : State) : Completes i.unit i.IsFlush s (exec i s) := by
  cases i with
  | new32 c p sd | new64 c p sd => exact completes_newAcc p sd
  | reset32 c | reset64 c => exact withAcc_induction completes_raise fun _ _ => .inr ⟨_, _, rfl, .inl rfl⟩
  | updb32 c b | updb64 c b => exact withAcc_induction completes_raise fun a _ => completes_accumulate a [b]
  | upd32 c | upd64 c => exact completes_updateBuffer
  | upds32 c | upds64 c => exact completes_updateSlice
  | value32 c | final32 c | digest32 c | value64 c | final64 c | digest64 c =>
    exact withAcc_induction completes_raise fun _ _ => completes_respond _
  | comp1_32 | comp2_32 | comp3_32 | comp1_64 | comp2_64 | comp3_64 => exact completes_computeOn _ _
  | tbuild32 | tbuild64 => exact completes_respond _
  | tget32 | tget64 => exact completes_setUnit cacheChange_getOrBuild _
  | cflush32 => exact completes_setUnit (.inr (.inr ⟨rfl, .inl rfl⟩)) _
  | cflush64 => exact completes_setUnit (.inr (.inr ⟨rfl, .inr rfl⟩)) _

/-! Faults. -/

section
variable {i : Instr} {s t : State} {f : CmdFault}

/-- A command answered with a fault has written nothing but the response (60_exceptions R155). -/
theorem eq_raise_of_exec (h : exec i s = .next t) (hf : t.out = .fault f :: s.out) : t = s.raise f := by
  obtain ⟨g, e⟩ | ⟨u, r, e, _⟩ := exec_completes i s
  · obtain rfl : s.raise g = t := Host.Outcome.next.inj (e.symm.trans h)
    obtain rfl : g = f := by simpa using hf
    rfl
  · obtain rfl : (s.setUnit i.unit u).respond (.ok r) = t := Host.Outcome.next.inj (e.symm.trans h)
    simp at hf

/-- A command that meets a fault is answered with it and writes nothing. -/
theorem exec_of_faultOf (hf : faultOf i s = some f) : exec i s = .next (s.raise f) := by
  obtain ⟨t, ht⟩ := exec_eq_next i s
  have hout : t.out = .fault f :: s.out := (ht ▸ exec_reports i s).out_iff.mpr hf
  rw [ht, eq_raise_of_exec ht hout]

end

/-- Settles O38: the context range is the first fault of a command, and a fault writes nothing. -/
theorem execAnswersContextRange : Obligations.ExecAnswersContextRange := fun _ _ h => exec_of_faultOf (if_pos h)

/-- Settles O39: the fault is the decoder's, raised on the taken state, or the one of the command, which writes
nothing. -/
theorem faultsWriteNothing : Obligations.FaultsWriteNothing := by
  intro s t c rest f hp h hf
  have htaken : t = (s.take c rest).raise f := by
    rcases hd : s.decodeHeader c.header with e | i
    · obtain rfl : (s.take c rest).raise (.illegalCommand e) = t :=
        Host.Outcome.next.inj ((step_of_decode_error hp hd).symm.trans h)
      obtain rfl : CmdFault.illegalCommand e = f := by simpa using hf
      rfl
    · exact eq_raise_of_exec (exec_of_step hp hd h) hf
  rw [hf, htaken]
  rfl

/-! The frame of a command. -/

section
variable {w : Nat} {i : Instr} {b b' : List (Ctx w)}

theorem BankChange.length_eq (h : BankChange i b b') : b'.length = b.length := by
  cases h with
  | same => rfl
  | create a hc hn => exact List.length_set
  | write v hc hw ha => exact List.length_set

/-- A context the command does not name is not written (20_memory R51). -/
theorem BankChange.getElem?_of_not_named (h : BankChange i b b') {k : Nat} (hk : i.names i.unit k = false) :
    b'[k]? = b[k]? := by
  have hne : ∀ c : BitVec 8, i.context = some c → c.toNat ≠ k := by
    rintro c hc rfl
    simp [Instr.names_unit, hc] at hk
  cases h with
  | same => rfl
  | create a hc hn => exact List.getElem?_set_ne (hne _ hc)
  | write v hc hw ha => exact List.getElem?_set_ne (hne _ hc)

end

section
variable {i : Instr} {s t : State}

theorem exec_bank_length (h : exec i s = .next t) (W : Width) : (t.unit W).bank.length = (s.unit W).bank.length := by
  rcases exec_bank h W with ⟨rfl, hb⟩ | ⟨_, hu⟩
  · exact hb.length_eq
  · rw [hu]

theorem exec_bank_of_not_named (h : exec i s = .next t) (W : Width) {k : Nat} (hk : i.names W k = false) :
    (t.unit W).bank[k]? = (s.unit W).bank[k]? := by
  rcases exec_bank h W with ⟨rfl, hb⟩ | ⟨_, hu⟩
  · exact hb.getElem?_of_not_named hk
  · rw [hu]

/-- What a command does to the shared table of its own unit. -/
theorem exec_cacheChange (h : exec i s = .next t) :
    CacheChange (Config.consts i.unit) i.IsFlush (s.unit i.unit) (t.unit i.unit) := by
  obtain ⟨f, e⟩ | ⟨u, r, e, hc⟩ := exec_completes i s
  · obtain rfl : s.raise f = t := Host.Outcome.next.inj (e.symm.trans h)
    rw [raise_eq, respond_unit]
    exact .inl rfl
  · obtain rfl : (s.setUnit i.unit u).respond (.ok r) = t := Host.Outcome.next.inj (e.symm.trans h)
    rwa [respond_unit, unit_setUnit]

/-- The unit a command does not belong to is unchanged whole (00_scope R2). -/
theorem exec_other_unit (h : exec i s = .next t) {W : Width} (hW : i.unit ≠ W) : t.unit W = s.unit W := by
  rcases exec_bank h W with ⟨hi, _⟩ | ⟨_, hu⟩
  · exact absurd hi hW
  · exact hu

/-- What a command can change in either shared table; only the flush of the table's own unit can empty it (41 R93). -/
theorem exec_cacheChange_unit (h : exec i s = .next t) (W : Width) :
    CacheChange (Config.consts W) (i.unit = W ∧ i.IsFlush) (s.unit W) (t.unit W) := by
  by_cases hW : i.unit = W
  · subst hW
    simpa using exec_cacheChange h
  · exact .inl (by rw [exec_other_unit h hW])

end

/-- Settles O40: the answer is the old state with its own unit replaced and one response more, and no bank changes
length. -/
theorem everyCommandAnswersOnce : Obligations.EveryCommandAnswersOnce := by
  intro i s
  obtain ⟨u, r, e, _⟩ := exec_effect i s
  exact ⟨r, _, e, by simp, by simp, by simp, by simp, by simp, exec_bank_length e .w32, exec_bank_length e .w64⟩

/-- Settles O49: each change of a bank is at the context the command names. -/
theorem contextsIndependent : Obligations.ContextsIndependent := fun _ _ _ _ h =>
  ⟨exec_bank_of_not_named h .w32, exec_bank_of_not_named h .w64⟩

/-- Settles O48: the change of each shared table is the one `exec_cacheChange_unit` allows. -/
theorem cacheChangesOnlyThus : Obligations.CacheChangesOnlyThus := by
  intro i s t h
  have hflush32 : (i.unit = .w32 ∧ i.IsFlush) = (i = .cflush32) := by
    cases i <;> simp [Instr.unit, Instr.IsFlush]
  have hflush64 : (i.unit = .w64 ∧ i.IsFlush) = (i = .cflush64) := by
    cases i <;> simp [Instr.unit, Instr.IsFlush]
  exact ⟨hflush32 ▸ exec_cacheChange_unit h .w32, hflush64 ▸ exec_cacheChange_unit h .w64,
    fun hi => exec_other_unit h (W := .w64) (by simp [hi]), fun hi => exec_other_unit h (W := .w32) (by simp [hi])⟩

/-! The invariant. -/

theorem State.sound_iff {s : State} :
    s.Sound ↔ (∀ W, (s.unit W).Sound (Config.consts W)) ∧ 1 ≤ s.lenw ∧ s.lenw ≤ 64 := by
  constructor
  · rintro ⟨h32, h64, hlen⟩
    exact ⟨fun W => match W with | .w32 => h32 | .w64 => h64, hlen⟩
  · rintro ⟨hu, hlen⟩
    exact ⟨hu .w32, hu .w64, hlen⟩

theorem CrcUnit.por_sound {w : Nat} (K : UnitConsts w) {n : Nat} (h : 1 ≤ n ∧ n ≤ 256) : (CrcUnit.por w n).Sound K := by
  simpa [CrcUnit.Sound] using h

section
variable {w : Nat} {K : UnitConsts w} {i : Instr}

/-- A shared table stays the built one: it is changed only to the built one or to no value. -/
theorem cacheChange_keeps_built {flush : Prop} {u v : CrcUnit w} (h : CacheChange K flush u v)
    (hst : ∀ T, u.st = some T → T = build K.canonPoly) : ∀ T, v.st = some T → T = build K.canonPoly := by
  intro T hT
  obtain hv | ⟨_, hv⟩ | ⟨hv, _⟩ := h
  · exact hst T (hv ▸ hT)
  · exact (Option.some.inj (hv.symm.trans hT)).symm
  · simp [hv] at hT

theorem sound_of_mem_set {b : List (Ctx w)} {k : Nat} {a x : Acc w} (hb : ∀ a, some a ∈ b → a.Sound K) (ha : a.Sound K)
    (hx : some x ∈ b.set k (some a)) : x.Sound K := by
  obtain hx | hx := List.mem_or_eq_of_mem_set hx
  · exact hb x hx
  · obtain rfl : x = a := Option.some.inj hx
    exact ha

/-- A command other than NEW writes running values alone, and soundness speaks of none. -/
theorem BankChange.keeps_sound {b b' : List (Ctx w)} (h : BankChange i b b') (hn : i.isNew = false)
    (hb : ∀ a, some a ∈ b → a.Sound K) : ∀ a, some a ∈ b' → a.Sound K := by
  intro x hx
  cases h with
  | same => exact hb x hx
  | create a hc hn' => simp [hn] at hn'
  | @write c a v hc hw ha =>
    have hsound : Acc.Sound K { a with cur := v } := hb a (List.mem_of_getElem? ha)
    exact sound_of_mem_set hb hsound hx

/-- The accumulator a NEW with the polynomial `P` and the seed `S` writes (42 R102, 43 R117). -/
def freshAcc (K : UnitConsts w) (P S : BitVec w) : Acc w :=
  { poly := P, seed := S, cur := S, tab := if P = K.canonPoly then .shared else .owned (build P) }

theorem freshAcc_sound (K : UnitConsts w) (P S : BitVec w) : (freshAcc K P S).Sound K := by
  by_cases h : P = K.canonPoly
  · exact (Acc.sound_shared_iff (if_pos h)).mpr h
  · exact (Acc.sound_owned_iff (if_neg h)).mpr ⟨h, rfl⟩

end

section
variable {i : Instr} {s t : State} {W : Width} {c : BitVec 8}

@[simp] theorem wroteAcc_bank (a : Acc W.bits) :
    ((wroteAcc W c a s).unit W).bank = (s.unit W).bank.set c.toNat (some a) := by
  cases W <;> rfl

theorem newAcc_out_of_range {p sd : Bool} (h : (s.unit W).bank[c.toNat]? = none) :
    newAcc W c p sd s = .next (s.raise (.illegalCommand .ctxRange)) :=
  if_neg (Nat.not_lt.mpr (List.getElem?_eq_none_iff.mp h))

theorem newAcc_keeps_accs_sound {p sd : Bool} (hs : (s.unit W).Sound (Config.consts W))
    (h : newAcc W c p sd s = .next t) : ∀ a, some a ∈ (t.unit W).bank → a.Sound (Config.consts W) := by
  obtain ⟨_, _, haccs⟩ := id hs
  rcases hb : (s.unit W).bank[c.toNat]? with _ | x
  · obtain rfl := Host.Outcome.next.inj ((newAcc_out_of_range hb).symm.trans h)
    rwa [raise_eq, respond_unit]
  · have hlt : c.toNat < (s.unit W).bank.length := (List.getElem?_eq_some_iff.mp hb).1
    obtain rfl := Host.Outcome.next.inj ((newAcc_of_sound hs hlt rfl rfl).symm.trans h)
    intro x hx
    rw [wroteAcc_bank] at hx
    exact sound_of_mem_set haccs (freshAcc_sound _ _ _) hx

/-- Every command keeps every accumulator of its unit sound. -/
theorem exec_keeps_accs_sound (hs : (s.unit i.unit).Sound (Config.consts i.unit)) (h : exec i s = .next t) :
    ∀ a, some a ∈ (t.unit i.unit).bank → a.Sound (Config.consts i.unit) := by
  cases hn : i.isNew with
  | true =>
    cases i with
    | new32 c p sd => exact newAcc_keeps_accs_sound (W := .w32) hs h
    | new64 c p sd => exact newAcc_keeps_accs_sound (W := .w64) hs h
    | _ => simp [Instr.isNew] at hn
  | false =>
    obtain ⟨_, hb⟩ | ⟨hne, _⟩ := exec_bank h i.unit
    · exact hb.keeps_sound hn hs.2.2
    · exact absurd rfl hne

/-- Every command keeps each unit sound, whatever the other one is. -/
theorem exec_keeps_unit_sound (hs : (s.unit W).Sound (Config.consts W)) (h : exec i s = .next t) :
    (t.unit W).Sound (Config.consts W) := by
  by_cases hW : i.unit = W
  · subst hW
    obtain ⟨hlen, hst, _⟩ := id hs
    exact ⟨by rwa [exec_bank_length h], cacheChange_keeps_built (exec_cacheChange h) hst, exec_keeps_accs_sound hs h⟩
  · rwa [exec_other_unit h hW]

theorem exec_lenw (h : exec i s = .next t) : t.lenw = s.lenw := by
  obtain ⟨u, r, e, _⟩ := exec_effect i s
  obtain rfl : (s.setUnit i.unit u).respond r = t := Host.Outcome.next.inj (e.symm.trans h)
  simp

/-! The step. -/

@[simp] theorem take_unit (s : State) (cmd : Command) (rest : List Event) (W : Width) :
    (s.take cmd rest).unit W = s.unit W := by
  cases W <;> rfl

theorem powerOn_unit (s : State) (o : Option Command) (rest : List Event) (W : Width) :
    (s.powerOn o rest).unit W = CrcUnit.por W.bits (s.unit W).bank.length := by
  cases W <;> rfl

/-- The ways a step can answer a next state. -/
theorem step_next_cases (h : step s = .next t) :
    t = s ∨ (∃ o rest, t = s.powerOn o rest) ∨ (∃ cmd rest f, t = (s.take cmd rest).raise f) ∨
      ∃ cmd rest i, exec i (s.take cmd rest) = .next t := by
  obtain ⟨_, e⟩ | ⟨o, rest, _, e⟩ | ⟨cmd, rest, f, _, _, e⟩ | ⟨_, _, _, _, _, _, e⟩ | ⟨cmd, rest, i, _, _, _, e⟩ :=
    step_cases s
  · exact .inl (Host.Outcome.next.inj (h.symm.trans e))
  · exact .inr (.inl ⟨o, rest, Host.Outcome.next.inj (h.symm.trans e)⟩)
  · exact .inr (.inr (.inl ⟨cmd, rest, _, Host.Outcome.next.inj (h.symm.trans e)⟩))
  · simp [e] at h
  · exact .inr (.inr (.inr ⟨cmd, rest, i, e.symm.trans h⟩))

/-- A step keeps each unit sound: a command does, a reset leaves no table, and what else a step does touches no unit. -/
theorem step_keeps_unit_sound (hs : (s.unit W).Sound (Config.consts W)) (h : step s = .next t) :
    (t.unit W).Sound (Config.consts W) := by
  obtain rfl | ⟨o, rest, rfl⟩ | ⟨cmd, rest, f, rfl⟩ | ⟨cmd, rest, i, e⟩ := step_next_cases h
  · exact hs
  · obtain ⟨hlen, _, _⟩ := hs
    rw [powerOn_unit]
    exact CrcUnit.por_sound _ hlen
  · rwa [raise_eq, respond_unit, take_unit]
  · exact exec_keeps_unit_sound (by rwa [take_unit]) e

/-- `LENW` is a parameter (00_scope R6). -/
theorem step_lenw (h : step s = .next t) : t.lenw = s.lenw := by
  obtain rfl | ⟨o, rest, rfl⟩ | ⟨cmd, rest, f, rfl⟩ | ⟨cmd, rest, i, e⟩ := step_next_cases h
  · rfl
  · rfl
  · rfl
  · exact (exec_lenw e).trans (take_lenw s cmd rest)

end

/-- Settles O45: a step keeps each unit sound, and `LENW` as it was. -/
theorem stepKeepsTablesSound : Obligations.StepKeepsTablesSound := by
  intro s t hs h
  obtain ⟨hu, hlen⟩ := State.sound_iff.mp hs
  exact State.sound_iff.mpr ⟨fun W => step_keeps_unit_sound (hu W) h, by rwa [step_lenw h]⟩

/-- Settles O44: no context is configured and no shared table is valid; the parameters are in their ranges. -/
theorem resetIsSound : Obligations.ResetIsSound := by
  have hpor : ∀ p : Params, p.Legal → (State.por p).Sound := fun _ ⟨h32, h64, hlen⟩ =>
    ⟨CrcUnit.por_sound _ h32, CrcUnit.por_sound _ h64, hlen⟩
  exact ⟨hpor, hpor Params.suggested (by decide)⟩

/-- In a sound unit the table a configured context uses is the built one of its polynomial (10_state R24; 41 R92). -/
theorem tabOf_of_holds {s : State} {W : Width} {c : BitVec 8} {a : Acc W.bits} (hs : s.Sound)
    (ha : (s.unit W).bank[c.toNat]? = some (some a)) : (tabOf (Config.consts W) (s.unit W) a).1 = build a.poly := by
  obtain ⟨_, hst, haccs⟩ := (State.sound_iff.mp hs).1 W
  rw [tabOf_of_sound hst (haccs a (List.mem_of_getElem? ha))]

/-- Settles O46: the invariant at the context. -/
theorem contextTableIsBuilt : Obligations.ContextTableIsBuilt :=
  ⟨fun _ _ _ hs ha => tabOf_of_holds (W := .w32) hs ha, fun _ _ _ hs ha => tabOf_of_holds (W := .w64) hs ha⟩

end Sys2Proof.Machine
end

section
/-! PROOFS, family other: two states side by side. Two states whose ports agree, and the contexts a command names,
answer that command alike and write the same into those contexts, if the command's unit is sound in both; from it the
independence of contexts (20_memory R51) and the invisibility of the cache (41 R93). -/

namespace Sys2Proof.Machine

/-- The states agree on what the command may read: the ports, and the context it names in its unit. -/
def AgreeOn (i : Instr) (W : Width) (s t : State) : Prop :=
  s.ports = t.ports ∧ ∀ c, i.context = some c → (s.unit W).bank[c.toNat]? = (t.unit W).bank[c.toNat]?

/-- One write for two banks: none, or the same accumulator into the context the command names. -/
inductive SameWrite {w : Nat} (i : Instr) (b₁ b₂ : List (Ctx w)) : List (Ctx w) → List (Ctx w) → Prop where
  | none : SameWrite i b₁ b₂ b₁ b₂
  | set {c : BitVec 8} (a : Acc w) (hc : i.context = some c) :
      SameWrite i b₁ b₂ (b₁.set c.toNat (some a)) (b₂.set c.toNat (some a))

/-- The answers carry one response, and the banks of the unit have had one write. -/
def Alike (i : Instr) (W : Width) (s t : State) (A B : Answer) : Prop :=
  ∃ u v r, A = .next ((s.setUnit W u).respond r) ∧ B = .next ((t.setUnit W v).respond r) ∧
    SameWrite i (s.unit W).bank (t.unit W).bank u.bank v.bank

section
variable {w : Nat} {i : Instr} {b₁ b₂ b₁' b₂' : List (Ctx w)}

/-- Banks that agree on a context the command names agree on it after one write. -/
theorem SameWrite.getElem?_of_named (h : SameWrite i b₁ b₂ b₁' b₂') {k : Nat} (hk : i.names i.unit k = true)
    (hb : b₁[k]? = b₂[k]?) : b₁'[k]? = b₂'[k]? := by
  cases h with
  | none => exact hb
  | @set c a hc =>
    obtain rfl : c.toNat = k := by simpa [Instr.names_unit, hc] using hk
    simp only [List.getElem?_set_self', hb]

theorem SameWrite.eq (h : SameWrite i b₁ b₂ b₁' b₂') (hb : b₁ = b₂) : b₁' = b₂' := by
  cases h with
  | none => exact hb
  | set a hc => rw [hb]

end

/-! Each shared operation, and each command at either width, on two states that agree. -/

section
variable {i : Instr} {W : Width} {s t : State} {c : BitVec 8}

theorem alike_respond (r : Response) : Alike i W s t (.next (s.respond r)) (.next (t.respond r)) :=
  ⟨s.unit W, t.unit W, r, by rw [setUnit_unit], by rw [setUnit_unit], .none⟩

theorem alike_raise (f : CmdFault) : Alike i W s t (.next (s.raise f)) (.next (t.raise f)) := alike_respond (.fault f)

/-- Two updates of the unit that keep its bank. -/
theorem alike_of_bank_eq {u v : CrcUnit W.bits} (r : Response) (hu : u.bank = (s.unit W).bank)
    (hv : v.bank = (t.unit W).bank) :
    Alike i W s t (.next ((s.setUnit W u).respond r)) (.next ((t.setUnit W v).respond r)) :=
  ⟨u, v, r, rfl, rfl, hu ▸ hv ▸ .none⟩

theorem alike_wroteAcc (hc : i.context = some c) (a : Acc W.bits) :
    Alike i W s t (.next (wroteAcc W c a s)) (.next (wroteAcc W c a t)) :=
  ⟨_, _, _, rfl, rfl, .set a hc⟩

theorem alike_accumulate (hs : (s.unit W).Sound (Config.consts W)) (ht : (t.unit W).Sound (Config.consts W))
    (hc : i.context = some c) {a : Acc W.bits} (ha : (s.unit W).bank[c.toNat]? = some (some a))
    (ha' : (t.unit W).bank[c.toNat]? = some (some a)) (X : List Byte) :
    Alike i W s t (accumulate W c a X s) (accumulate W c a X t) := by
  rw [accumulate_of_sound hs ha, accumulate_of_sound ht ha']
  exact alike_wroteAcc hc _

variable (hag : AgreeOn i W s t)
include hag

theorem AgreeOn.portPoly_eq : portPoly W t = portPoly W s := by rw [portPoly, portPoly, hag.1]

theorem AgreeOn.portSeed_eq : portSeed W t = portSeed W s := by rw [portSeed, portSeed, hag.1]

theorem alike_withAcc (hc : i.context = some c) {go go' : Acc W.bits → Answer}
    (h : ∀ a, (s.unit W).bank[c.toNat]? = some (some a) → (t.unit W).bank[c.toNat]? = some (some a) →
      Alike i W s t (go a) (go' a)) :
    Alike i W s t (withAcc W c s go) (withAcc W c t go') := by
  have hbank := hag.2 c hc
  obtain ⟨hb, e⟩ | ⟨hb, e⟩ | ⟨a, hb, e⟩ := withAcc_cases W c s go <;> rw [e]
  · rw [withAcc_out_of_range (hbank ▸ hb)]; exact alike_raise _
  · rw [withAcc_unconfigured (hbank ▸ hb)]; exact alike_raise _
  · rw [withAcc_configured (hbank ▸ hb)]; exact h a hb (hbank ▸ hb)

theorem alike_withBuffer {go go' : List Byte → Answer}
    (h : ∀ B, s.ports.buf = some B → t.ports.buf = some B → Alike i W s t (go B) (go' B)) :
    Alike i W s t (withBuffer s go) (withBuffer t go') := by
  obtain ⟨hports, _⟩ := hag
  rcases hb : s.ports.buf with _ | B
  · rw [withBuffer_absent hb, withBuffer_absent (hports ▸ hb)]; exact alike_raise _
  · rw [withBuffer_present hb, withBuffer_present (hports ▸ hb)]; exact h B hb (hports ▸ hb)

theorem alike_withSlice {go go' : List Byte → Answer} {B : List Byte} (h : ∀ X, Alike i W s t (go X) (go' X)) :
    Alike i W s t (withSlice s B go) (withSlice t B go') := by
  obtain ⟨hports, _⟩ := hag
  rcases Nat.lt_or_ge B.length (s.ports.off + s.ports.len) with hB | hB
  · rw [withSlice_out_of_range hB, withSlice_out_of_range (hports ▸ hB)]; exact alike_raise _
  · rw [withSlice_in_range hB, withSlice_in_range (hports ▸ hB), hports]; exact h _

/-- VALUE, FINAL and DIGEST. -/
theorem alike_readAcc (hc : i.context = some c) (r : Acc W.bits → Response) :
    Alike i W s t (withAcc W c s fun a => .next (s.respond (r a))) (withAcc W c t fun a => .next (t.respond (r a))) :=
  alike_withAcc hag hc fun a _ _ => alike_respond (r a)

theorem alike_resetAcc (hc : i.context = some c) : Alike i W s t (resetAcc W c s) (resetAcc W c t) :=
  alike_withAcc hag hc fun a _ _ => ⟨_, _, _, rfl, rfl, .set { a with cur := a.seed } hc⟩

theorem alike_buildTable : Alike i W s t (buildTable W s) (buildTable W t) := by
  rw [buildTable, buildTable, hag.portPoly_eq]
  exact alike_respond _

variable (hs : (s.unit W).Sound (Config.consts W)) (ht : (t.unit W).Sound (Config.consts W))
include hs ht

theorem alike_newAcc (hc : i.context = some c) (p sd : Bool) :
    Alike i W s t (newAcc W c p sd s) (newAcc W c p sd t) := by
  have hP : operandPoly W p t = operandPoly W p s := by rw [operandPoly, operandPoly, hag.portPoly_eq]
  have hS : operandSeed W sd t = operandSeed W sd s := by rw [operandSeed, operandSeed, hag.portSeed_eq]
  rcases hb : (s.unit W).bank[c.toNat]? with _ | x
  · rw [newAcc_out_of_range hb, newAcc_out_of_range (hag.2 c hc ▸ hb)]
    exact alike_raise _
  · have hlt : c.toNat < (s.unit W).bank.length := (List.getElem?_eq_some_iff.mp hb).1
    have hlt' : c.toNat < (t.unit W).bank.length := (List.getElem?_eq_some_iff.mp (hag.2 c hc ▸ hb)).1
    rw [newAcc_of_sound hs hlt rfl rfl, newAcc_of_sound ht hlt' hP hS]
    exact alike_wroteAcc hc _

theorem alike_updateByte (hc : i.context = some c) (b : Byte) :
    Alike i W s t (updateByte W c b s) (updateByte W c b t) :=
  alike_withAcc hag hc fun _ ha ha' => alike_accumulate hs ht hc ha ha' [b]

theorem alike_updateBuffer (hc : i.context = some c) : Alike i W s t (updateBuffer W c s) (updateBuffer W c t) :=
  alike_withAcc hag hc fun _ ha ha' => alike_withBuffer hag fun B _ _ => alike_accumulate hs ht hc ha ha' B

theorem alike_updateSlice (hc : i.context = some c) : Alike i W s t (updateSlice W c s) (updateSlice W c t) :=
  alike_withAcc hag hc fun _ ha ha' => alike_withBuffer hag fun _ _ _ => alike_withSlice hag fun X =>
    alike_accumulate hs ht hc ha ha' X

theorem alike_computeOn (P S : BitVec W.bits) : Alike i W s t (computeOn W P S s) (computeOn W P S t) := by
  rcases hb : s.ports.buf with _ | B
  · rw [computeOn_absent hb, computeOn_absent (hag.1 ▸ hb)]
    exact alike_raise _
  · rw [computeOn_of_sound hs hb, computeOn_of_sound ht (hag.1 ▸ hb)]
    exact alike_of_bank_eq _ rfl rfl

theorem alike_comp2 : Alike i W s t (comp2 W s) (comp2 W t) := by
  rw [comp2, comp2, hag.portSeed_eq]
  exact alike_computeOn hag hs ht _ _

theorem alike_comp3 : Alike i W s t (comp3 W s) (comp3 W t) := by
  rw [comp3, comp3, hag.portPoly_eq, hag.portSeed_eq]
  exact alike_computeOn hag hs ht _ _

theorem alike_getTable : Alike i W s t (getTable W s) (getTable W t) := by
  rw [getTable_of_sound hs rfl, getTable_of_sound ht hag.portPoly_eq]
  exact alike_of_bank_eq _ rfl rfl

end

/-- Every command answers two states alike that agree on what it may read, if its unit is sound in both. -/
theorem exec_alike {i : Instr} {s t : State} (hag : AgreeOn i i.unit s t)
    (hs : (s.unit i.unit).Sound (Config.consts i.unit)) (ht : (t.unit i.unit).Sound (Config.consts i.unit)) :
    Alike i i.unit s t (exec i s) (exec i t) := by
  cases i with
  | new32 c p sd | new64 c p sd => exact alike_newAcc hag hs ht rfl p sd
  | reset32 c | reset64 c => exact alike_resetAcc hag rfl
  | updb32 c b | updb64 c b => exact alike_updateByte hag hs ht rfl b
  | upd32 c | upd64 c => exact alike_updateBuffer hag hs ht rfl
  | upds32 c | upds64 c => exact alike_updateSlice hag hs ht rfl
  | value32 c | final32 c | digest32 c | value64 c | final64 c | digest64 c => exact alike_readAcc hag rfl _
  | comp1_32 | comp1_64 => exact alike_computeOn hag hs ht _ _
  | comp2_32 | comp2_64 => exact alike_comp2 hag hs ht
  | comp3_32 | comp3_64 => exact alike_comp3 hag hs ht
  | tbuild32 | tbuild64 => exact alike_buildTable hag
  | tget32 | tget64 => exact alike_getTable hag hs ht
  | cflush32 | cflush64 => exact alike_of_bank_eq _ rfl rfl

/-! The named contexts. -/

section
variable {i : Instr} {s t : State}

theorem unit_eq_of_names {W : Width} {k : Nat} (h : i.names W k = true) : i.unit = W := by
  simp only [Instr.names, Bool.and_eq_true, decide_eq_true_eq] at h
  exact h.1

theorem names_of_context {c : BitVec 8} (hc : i.context = some c) : i.names i.unit c.toNat = true := by
  simp [Instr.names_unit, hc]

/-- The contexts a command names agree after it as they did before. -/
theorem Alike.named_eq {s' t' : State} (h : Alike i i.unit s t (.next s') (.next t')) {W : Width} {k : Nat}
    (hk : i.names W k = true) (hb : (s.unit W).bank[k]? = (t.unit W).bank[k]?) :
    (s'.unit W).bank[k]? = (t'.unit W).bank[k]? := by
  obtain ⟨u, v, r, ⟨⟩, ⟨⟩, hw⟩ := h
  obtain rfl := unit_eq_of_names hk
  simpa using hw.getElem?_of_named hk hb

end

/-- Settles O50: the states agree on what the command may read, so it answers them alike, and one write of the named
context leaves it the same in both. -/
theorem resultDependsOnNamedContextAlone : Obligations.ResultDependsOnNamedContextAlone := by
  intro i s t hs ht hports h32 h64
  have hnamed : ∀ W k, i.names W k = true → (s.unit W).bank[k]? = (t.unit W).bank[k]? := fun W =>
    match W with
    | .w32 => h32
    | .w64 => h64
  have halike : Alike i i.unit s t (exec i s) (exec i t) :=
    exec_alike ⟨hports, fun c hc => hnamed _ _ (names_of_context hc)⟩ ((State.sound_iff.mp hs).1 _)
      ((State.sound_iff.mp ht).1 _)
  obtain ⟨u, v, r, e, e', _⟩ := id halike
  rw [e, e'] at halike
  exact ⟨r, _, _, e, e', by simp, by simp, fun k hk => halike.named_eq (W := .w32) hk (h32 k hk),
    fun k hk => halike.named_eq (W := .w64) hk (h64 k hk)⟩

/-! The cache. -/

/-- Hiding the shared tables leaves the banks and the rest (10_state R28). -/
theorem hideCache_eq_iff {s t : State} : s.hideCache = t.hideCache ↔
    (∀ W, (s.unit W).bank = (t.unit W).bank) ∧ s.lenw = t.lenw ∧ s.pending = t.pending ∧ s.ports = t.ports ∧
      s.pos = t.pos ∧ s.out = t.out := by
  constructor
  · intro h
    simp only [State.hideCache, State.mk.injEq, CrcUnit.mk.injEq, and_true] at h
    obtain ⟨h32, h64, hrest⟩ := h
    exact ⟨fun W => match W with | .w32 => h32 | .w64 => h64, hrest⟩
  · rintro ⟨hbank, hlen, hpend, hports, hpos, hout⟩
    have h32 : s.u32.bank = t.u32.bank := hbank .w32
    have h64 : s.u64.bank = t.u64.bank := hbank .w64
    simp only [State.hideCache, h32, h64, hlen, hpend, hports, hpos, hout]

section
variable {s t : State}

theorem hideCache_take (h : s.hideCache = t.hideCache) (c : Command) (rest : List Event) :
    (s.take c rest).hideCache = (t.take c rest).hideCache := by
  obtain ⟨hbank, hlen, _, _, hpos, hout⟩ := hideCache_eq_iff.mp h
  exact hideCache_eq_iff.mpr ⟨fun W => by simpa using hbank W, hlen, rfl, rfl, congrArg (· + 1) hpos, hout⟩

theorem hideCache_respond (h : s.hideCache = t.hideCache) (r : Response) :
    (s.respond r).hideCache = (t.respond r).hideCache := by
  obtain ⟨hbank, hlen, hpend, hports, hpos, hout⟩ := hideCache_eq_iff.mp h
  exact hideCache_eq_iff.mpr ⟨fun W => by simpa using hbank W, hlen, hpend, hports, hpos, congrArg (r :: ·) hout⟩

theorem hideCache_setUnit (h : s.hideCache = t.hideCache) {W : Width} {u v : CrcUnit W.bits} (huv : u.bank = v.bank) :
    (s.setUnit W u).hideCache = (t.setUnit W v).hideCache := by
  obtain ⟨hbank, hrest⟩ := hideCache_eq_iff.mp h
  refine hideCache_eq_iff.mpr ⟨fun V => ?_, by simpa using hrest⟩
  by_cases hV : W = V
  · subst hV
    simpa using huv
  · rw [unit_setUnit_of_ne hV, unit_setUnit_of_ne hV, hbank]

theorem hideCache_powerOn (h : s.hideCache = t.hideCache) (o : Option Command) (rest : List Event) :
    (s.powerOn o rest).hideCache = (t.powerOn o rest).hideCache := by
  obtain ⟨hbank, hlen, _, _, hpos, hout⟩ := hideCache_eq_iff.mp h
  have h32 : s.u32.bank = t.u32.bank := hbank .w32
  have h64 : s.u64.bank = t.u64.bank := hbank .w64
  simp only [State.powerOn, State.hideCache, h32, h64, hlen, hpos, hout]

theorem decodeHeader_congr (h : s.hideCache = t.hideCache) (w : BitVec 32) : s.decodeHeader w = t.decodeHeader w := by
  obtain ⟨hbank, _⟩ := hideCache_eq_iff.mp h
  have h32 : s.u32.bank = t.u32.bank := hbank .w32
  have h64 : s.u64.bank = t.u64.bank := hbank .w64
  rw [State.decodeHeader, State.decodeHeader, h32, h64]

theorem beyondPorts_congr (h : s.hideCache = t.hideCache) (i : Instr) : beyondPorts i s = beyondPorts i t := by
  obtain ⟨hbank, hlen, _, hports, _⟩ := hideCache_eq_iff.mp h
  have hcfg : ∀ W k, s.cfg W k = t.cfg W k := fun W k => by
    rw [State.cfg_eq, State.cfg_eq, CrcUnit.cfg, CrcUnit.cfg, hbank]
  simp only [beyondPorts, unconfigured, State.bufferTooLong, hcfg, hports, hlen]

/-- A command answers two sound states that differ in their shared tables alone with states that do. -/
theorem exec_sameButCache (h : s.hideCache = t.hideCache) (hs : s.Sound) (ht : t.Sound) (i : Instr) :
    sameButCache (exec i s) (exec i t) := by
  obtain ⟨hbank, _, _, hports, _⟩ := hideCache_eq_iff.mp h
  obtain ⟨u, v, r, e, e', hw⟩ := exec_alike (i := i) ⟨hports, fun c _ => by rw [hbank]⟩
    ((State.sound_iff.mp hs).1 _) ((State.sound_iff.mp ht).1 _)
  rw [e, e']
  exact hideCache_respond (hideCache_setUnit h (hw.eq (hbank _))) r

end

/-- Settles O47: the pending event is the same, its header is decoded alike, and no answer to it depends on a shared
table. -/
theorem cacheIsInvisible : Obligations.CacheIsInvisible := by
  intro s t hs ht h
  have hpend : s.pending = t.pending := (hideCache_eq_iff.mp h).2.2.1
  rcases hp : s.pending with _ | ⟨c | o, rest⟩
  · rw [step_of_idle hp, step_of_idle (hpend ▸ hp)]
    exact h
  · rcases hd : s.decodeHeader c.header with e | i
    · rw [step_of_decode_error hp hd, step_of_decode_error (hpend ▸ hp) (decodeHeader_congr h _ ▸ hd)]
      exact hideCache_respond (hideCache_take h c rest) _
    · rw [step_of_decode_ok hp hd, step_of_decode_ok (hpend ▸ hp) (decodeHeader_congr h _ ▸ hd),
        beyondPorts_congr (hideCache_take h c rest)]
      split
      · rfl
      · exact exec_sameButCache (hideCache_take h c rest) hs ht i
  · rw [step_of_powerOn hp, step_of_powerOn (hpend ▸ hp)]
    exact hideCache_powerOn h o rest

end Sys2Proof.Machine
end

section
/-! PROOFS, family other: the table builder. The bit-serial engine after any number of micro-steps (40 R82); the
shift/XOR step is linear, and over operands whose low bits are zero it shifts alone, which gives the laws of the table
(R83, R84) and the eight bit steps of a table step (R87). -/

namespace Sys2Proof.Machine

/-! Iterated steps. -/

section
variable {w : Nat} (P : BitVec w)

theorem bitsteps_add (m n : Nat) (e : BitVec w) : bitsteps P (m + n) e = bitsteps P n (bitsteps P m e) := by
  induction m generalizing e with
  | zero => rw [Nat.zero_add]; rfl
  | succ m ih => rw [Nat.succ_add]; exact ih (bitstep P e)

theorem bitsteps_succ (n : Nat) (e : BitVec w) : bitsteps P (n + 1) e = bitstep P (bitsteps P n e) := bitsteps_add P n 1 e

/-- Entry `i` of a built table, as a shift register started at `i` (R81). -/
theorem tabRead_build_eq (i : BitVec 8) : tabRead (build P) i = bitsteps P 8 (i.setWidth w) := by
  rw [tabRead_build, BitVec.ofNat_toNat]
  rfl

end

/-! The engine. -/

section
variable {w : Nat} (P : BitVec w)

/-- The engine with `m` entries stored and `k` steps made on the next one (10_state R29; 40 R82). -/
def Builder.reached (m k : Nat) : Builder w where
  poly := P
  i := BitVec.ofNat 9 m
  k := BitVec.ofNat 4 k
  entry := bitsteps P k ((BitVec.ofNat 8 m).setWidth w)
  dest := (build P).toList.take m

theorem reached_zero : Builder.reached P 0 0 = Builder.start P := rfl

variable {m k : Nat}

theorem reached_dest : (Builder.reached P m k).dest = (build P).toList.take m := rfl

theorem reached_i_toNat (hm : m ≤ 256) : (Builder.reached P m k).i.toNat = m := Nat.mod_eq_of_lt (by omega)

theorem reached_k_toNat (hk : k ≤ 8) : (Builder.reached P m k).k.toNat = k := Nat.mod_eq_of_lt (by omega)

theorem tick_of_complete {b : Builder w} (h : b.i.toNat = 256) : b.tick = b := if_pos h

/-- One shift/XOR step on the entry. -/
theorem tick_reached_shift (hm : m < 256) (hk : k < 8) : (Builder.reached P m k).tick = Builder.reached P m (k + 1) := by
  have hi : (Builder.reached P m k).i.toNat ≠ Config.nent := by
    rw [reached_i_toNat P hm.le]; exact hm.ne
  have hlt : (Builder.reached P m k).k.toNat < Config.nstep := by
    rw [reached_k_toNat P hk.le]; exact hk
  rw [Builder.tick, if_neg hi, if_pos hlt]
  simp only [Builder.reached, bitsteps_succ, BitVec.ofNat_add]

/-- The entry stored is the one `build` has at its place. -/
theorem build_getElem (hm : m < 256) : (build P).toList[m]? = some (bitsteps P 8 ((BitVec.ofNat 8 m).setWidth w)) := by
  have hread := tabRead_build_eq P (BitVec.ofNat 8 m)
  have hidx : (BitVec.ofNat 8 m).toNat = m := Nat.mod_eq_of_lt hm
  simp only [tabRead, hidx] at hread
  simp [← hread, hm]

/-- The store, with the load of the next entry. -/
theorem tick_reached_store (hm : m < 256) : (Builder.reached P m 8).tick = Builder.reached P (m + 1) 0 := by
  have hi : (Builder.reached P m 8).i.toNat ≠ Config.nent := by
    rw [reached_i_toNat P hm.le]; exact hm.ne
  have hge : ¬(Builder.reached P m 8).k.toNat < Config.nstep := by
    rw [reached_k_toNat P le_rfl]; exact lt_irrefl 8
  have hload : (BitVec.ofNat 9 m + 1#9).setWidth 8 = BitVec.ofNat 8 (m + 1) := by
    rw [← BitVec.ofNat_add, BitVec.setWidth_ofNat_of_le (by decide)]
  have hdest : (build P).toList.take (m + 1) =
      (build P).toList.take m ++ [bitsteps P 8 ((BitVec.ofNat 8 m).setWidth w)] := by
    rw [List.take_add_one, build_getElem P hm]; rfl
  rw [Builder.tick, if_neg hi, if_neg hge]
  simp only [Builder.reached, hload, hdest, bitsteps, BitVec.ofNat_add]

theorem ticks_succ (n : Nat) (b : Builder w) : Builder.ticks (n + 1) b = (Builder.ticks n b).tick := by
  induction n generalizing b with
  | zero => rfl
  | succ n ih => exact ih b.tick

/-- Nine micro-steps store an entry. -/
theorem ticks_start {n : Nat} (hn : n ≤ 256 * (8 + 1)) :
    Builder.ticks n (Builder.start P) = Builder.reached P (n / 9) (n % 9) := by
  induction n with
  | zero => exact (reached_zero P).symm
  | succ n ih =>
    rw [ticks_succ, ih (by omega)]
    by_cases hk : n % 9 < 8
    · rw [tick_reached_shift P (by omega) hk]
      congr 1 <;> omega
    · have hk' : n % 9 = 8 := by omega
      rw [hk', tick_reached_store P (by omega)]
      congr 1 <;> omega

theorem ticks_of_complete {b : Builder w} (h : b.i.toNat = 256) (n : Nat) : Builder.ticks n b = b := by
  induction n with
  | zero => rfl
  | succ n ih => rw [ticks_succ, ih, tick_of_complete h]

theorem ticks_add (m n : Nat) (b : Builder w) : Builder.ticks (m + n) b = Builder.ticks n (Builder.ticks m b) := by
  induction n with
  | zero => rfl
  | succ n ih => rw [← Nat.add_assoc, ticks_succ, ih, ticks_succ]

/-- After a whole build the engine rests. -/
theorem ticks_start_of_complete {n : Nat} (hn : Builder.length ≤ n) :
    Builder.ticks n (Builder.start P) = Builder.reached P 256 0 := by
  obtain ⟨d, rfl⟩ := Nat.exists_eq_add_of_le hn
  have hfull : Builder.ticks Builder.length (Builder.start P) = Builder.reached P 256 0 := ticks_start P le_rfl
  rw [ticks_add, hfull, ticks_of_complete (reached_i_toNat P le_rfl)]

theorem reached_complete_dest : (Builder.reached P 256 0).dest = (build P).toList := by
  rw [reached_dest, List.take_of_length_le Vector.length_toList.le]

end

/-- Settles O13: after `n` micro-steps the engine has stored `n / 9` entries, and after the last one it rests. -/
theorem builderComputesTable : Obligations.BuilderComputesTable := by
  intro W P
  refine ⟨fun n hn => ?_, ?_, fun n hn => ?_⟩
  · rw [ticks_start P hn]
    exact ⟨rfl, reached_i_toNat P (by omega), rfl⟩
  · rw [ticks_start_of_complete P le_rfl, reached_complete_dest]
  · rw [ticks_start_of_complete P hn, reached_complete_dest]

/-! Linearity. -/

section
variable {w : Nat} (P : BitVec w)

/-- The step, as a shift with the polynomial XORed on for a low bit of 1. -/
theorem bitstep_xor (a b : BitVec w) : bitstep P (a ^^^ b) = bitstep P a ^^^ bitstep P b := by
  have hlsb : (a ^^^ b).getLsbD 0 = (a.getLsbD 0 ^^ b.getLsbD 0) := BitVec.getLsbD_xor
  cases ha : a.getLsbD 0 <;> cases hb : b.getLsbD 0 <;> rw [ha, hb] at hlsb
  · rw [bitstep_of_lsb_false hlsb, bitstep_of_lsb_false ha, bitstep_of_lsb_false hb, BitVec.ushiftRight_xor_distrib]
  · rw [bitstep_of_lsb_true hlsb, bitstep_of_lsb_false ha, bitstep_of_lsb_true hb, BitVec.ushiftRight_xor_distrib,
      BitVec.xor_assoc]
  · rw [bitstep_of_lsb_true hlsb, bitstep_of_lsb_true ha, bitstep_of_lsb_false hb, BitVec.ushiftRight_xor_distrib,
      BitVec.xor_assoc, BitVec.xor_assoc, BitVec.xor_comm P]
  · rw [bitstep_of_lsb_false hlsb, bitstep_of_lsb_true ha, bitstep_of_lsb_true hb, BitVec.ushiftRight_xor_distrib,
      BitVec.xor_assoc, BitVec.xor_comm P, BitVec.xor_assoc, BitVec.xor_self, BitVec.xor_zero]

theorem bitsteps_xor (n : Nat) (a b : BitVec w) : bitsteps P n (a ^^^ b) = bitsteps P n a ^^^ bitsteps P n b := by
  induction n generalizing a b with
  | zero => rfl
  | succ n ih => rw [bitsteps, bitstep_xor, ih]; rfl

/-- While the low bits are zero the steps shift alone. -/
theorem bitsteps_of_low_zero {n : Nat} {e : BitVec w} (h : ∀ k, k < n → e.getLsbD k = false) :
    bitsteps P n e = e >>> n := by
  induction n with
  | zero => exact (BitVec.ushiftRight_zero e).symm
  | succ n ih =>
    have hshift : bitsteps P n e = e >>> n := ih fun k hk => h k (by omega)
    have hlsb : (e >>> n).getLsbD 0 = false := by rw [BitVec.getLsbD_ushiftRight]; exact h n (by omega)
    rw [bitsteps_succ, hshift, bitstep_of_lsb_false hlsb, BitVec.shiftRight_add]

theorem bitstep_zero : bitstep P 0 = 0 := (bitsteps_of_low_zero P (n := 1) (by simp)).trans (by simp)

theorem bitsteps_zero (n : Nat) : bitsteps P n 0 = 0 := (bitsteps_of_low_zero P (by simp)).trans (by simp)

/-- From a power of two the steps arrive at the polynomial when its bit has been shifted out. -/
theorem bitsteps_twoPow {k : Nat} (hk : k < w) : bitsteps P (k + 1) (BitVec.twoPow w k) = P := by
  have hshift : bitsteps P k (BitVec.twoPow w k) = BitVec.twoPow w 0 := by
    rw [bitsteps_of_low_zero P fun j hj => by simp [BitVec.getLsbD_twoPow, hk]; omega]
    ext j hj
    simp [BitVec.getLsbD_twoPow]
    omega
  have hw : 0 < w := by omega
  have hone : (BitVec.twoPow w 0).getLsbD 0 = true := by simp [hw]
  have hout : BitVec.twoPow w 0 >>> 1 = 0#w := by
    ext j hj
    have hne : 0 ≠ 1 + j := by omega
    simp [BitVec.getLsbD_twoPow, hne]
  rw [bitsteps_succ, hshift, bitstep_of_lsb_true hone, hout, BitVec.zero_xor]

/-! The entries. -/

theorem tabRead_build_xor (i j : BitVec 8) :
    tabRead (build P) (i ^^^ j) = tabRead (build P) i ^^^ tabRead (build P) j := by
  simp only [tabRead_build_eq, BitVec.setWidth_xor, bitsteps_xor]

theorem tabRead_build_zero : tabRead (build P) 0 = 0 := by
  rw [tabRead_build_eq, BitVec.ofNat_eq_ofNat, BitVec.setWidth_zero]
  exact bitsteps_zero P 8

theorem setWidth_one_shiftLeft {k : Nat} (hk : k < 8) : (1#8 <<< k).setWidth w = BitVec.twoPow w k := by
  have hbyte : 2 ^ k < 2 ^ 8 := Nat.pow_lt_pow_right (by decide) hk
  apply BitVec.eq_of_toNat_eq
  rw [BitVec.toNat_setWidth, BitVec.toNat_shiftLeft, BitVec.toNat_twoPow, Nat.shiftLeft_eq, BitVec.toNat_ofNat,
    Nat.one_mod_two_pow_eq_one.mpr (by decide), Nat.one_mul, Nat.mod_eq_of_lt hbyte]

/-- Entry `2^k` is the polynomial, stepped on until the eight steps are made. -/
theorem tabRead_build_one_shiftLeft (hw : 8 ≤ w) {k : Nat} (hk : k < 8) :
    tabRead (build P) (1#8 <<< k) = bitsteps P (7 - k) P := by
  have hsteps : 8 = k + 1 + (7 - k) := by omega
  rw [tabRead_build_eq, setWidth_one_shiftLeft hk, hsteps, bitsteps_add, bitsteps_twoPow P (by omega)]

/-- A table is its entries. -/
theorem table_ext {T U : Table w} (h : ∀ i, tabRead T i = tabRead U i) : T = U := by
  apply Vector.ext
  intro k hk
  have hread := h (BitVec.ofNat 8 k)
  have hidx : (BitVec.ofNat 8 k).toNat = k := Nat.mod_eq_of_lt hk
  simpa only [tabRead, hidx] using hread

end

/-- Settles O14: the laws follow from the linearity of the step and from its shift of a power of two. -/
theorem tableLaws : Obligations.TableLaws := fun W P =>
  ⟨bitstep_xor P, bitstep_zero P, tabRead_build_xor P, tabRead_build_zero P,
    tabRead_build_one_shiftLeft P (eight_le_bits W) (k := 7) (by decide),
    fun _ hk => tabRead_build_one_shiftLeft P (eight_le_bits W) hk, fun _ hT => table_ext hT⟩

/-! The byte step. -/

section
variable {w : Nat} (P : BitVec w)

theorem byte_ushiftRight_eight (b : Byte) : b.setWidth w >>> 8 = 0#w := by
  ext k hk
  simp

/-- The low byte of a value indexes the table; XORed away, it leaves the rest, which the steps shift alone. -/
theorem bitsteps_eight (x : BitVec w) : bitsteps P 8 x = tabRead (build P) (x.setWidth 8) ^^^ (x >>> 8) := by
  have hlow : ∀ k, k < 8 → ((x.setWidth 8).setWidth w ^^^ x).getLsbD k = false := fun k hk => by
    simpa [hk] using BitVec.lt_of_getLsbD
  have hrest : bitsteps P 8 ((x.setWidth 8).setWidth w ^^^ x) = x >>> 8 := by
    rw [bitsteps_of_low_zero P hlow, BitVec.ushiftRight_xor_distrib, byte_ushiftRight_eight, BitVec.zero_xor]
  rw [tabRead_build_eq, ← hrest, ← bitsteps_xor, ← BitVec.xor_assoc, BitVec.xor_self, BitVec.zero_xor]

theorem acc_build (cur : BitVec w) (b : Byte) : acc (build P) cur b = bitsteps P 8 (cur ^^^ b.setWidth w) := by
  rw [bitsteps_eight, BitVec.ushiftRight_xor_distrib, byte_ushiftRight_eight, BitVec.xor_zero]
  rfl

/-- Over the zero polynomial every step shifts alone. -/
theorem bitsteps_zero_poly (n : Nat) (e : BitVec w) : bitsteps 0 n e = e >>> n := by
  induction n with
  | zero => exact (BitVec.ushiftRight_zero e).symm
  | succ n ih =>
    have hstep : ∀ x : BitVec w, bitstep 0 x = x >>> 1 := fun x => by simp [bitstep]
    rw [bitsteps_succ, ih, hstep, BitVec.shiftRight_add]

end

/-- Settles O16: the low byte of the operand selects eight steps from the table, and the rest is shifted. -/
theorem tableStepIsEightBitSteps : Obligations.TableStepIsEightBitSteps := fun _ P cur b => acc_build P cur b

/-- Settles O15: eight shifts of a byte leave nothing, and of a running value XOR a byte what eight shifts of the
value do. -/
theorem zeroPolynomialTable : Obligations.ZeroPolynomialTable := by
  intro W i cur
  rw [tabRead_build_eq, acc_build, bitsteps_zero_poly, bitsteps_zero_poly, BitVec.ushiftRight_xor_distrib,
    byte_ushiftRight_eight]
  exact ⟨rfl, BitVec.xor_zero⟩

end Sys2Proof.Machine
end

section
/-! PROOFS, family other: UPD and UPDS at either width (42 R105, R106; 43 R120, R121), the laws of finalization (45
R146), and the codes of a response (30_encoding R64). -/

open Sys2Proof.Claims

namespace Sys2Proof.Machine

/-! UPD and UPDS. -/

section
variable {W : Width} {c : BitVec 8} {s : State} {a : Acc W.bits} {B : List Byte}

theorem updateBuffer_absent (ha : (s.unit W).bank[c.toNat]? = some (some a)) (hb : s.ports.buf = none) :
    updateBuffer W c s = .next (s.raise (.invalidArgument .bufferAbsent)) := by
  rw [updateBuffer, withAcc_configured ha, withBuffer_absent hb]

theorem updateBuffer_present (ha : (s.unit W).bank[c.toNat]? = some (some a)) (hb : s.ports.buf = some B) :
    updateBuffer W c s = accumulate W c a B s := by
  rw [updateBuffer, withAcc_configured ha, withBuffer_present hb]

theorem updateSlice_absent (ha : (s.unit W).bank[c.toNat]? = some (some a)) (hb : s.ports.buf = none) :
    updateSlice W c s = .next (s.raise (.invalidArgument .bufferAbsent)) := by
  rw [updateSlice, withAcc_configured ha, withBuffer_absent hb]

/-- A slice is determined by its length and its bytes (00_scope R9). -/
theorem eq_slice {X : List Byte} {o n : Nat} (hlen : X.length = n)
    (hX : ∀ j, j < n → X[j]? = B[o + j]?) : X = slice B o n := by
  apply List.ext_getElem?
  intro j
  rw [slice, List.getElem?_take, List.getElem?_drop]
  by_cases hj : j < n
  · rw [if_pos hj, hX j hj]
  · rw [if_neg hj, List.getElem?_eq_none (by omega)]

end

/-- A command that is `updateBuffer`, with UPD's row, obeys its rule. -/
theorem updateBufferRule_of_exec_eq {W : Width} {p m : BitVec 32} {i : BitVec 8 → Instr}
    (hsel : Selects p m fun h => i (h.extractLsb' 16 8)) (he : ∀ c s, exec (i c) s = updateBuffer W c s) :
    UpdateBufferRule (viewOf W) p m i := by
  refine ⟨hsel, fun s c hc => (he c s).trans (withAcc_unconfigured hc),
    fun s c a ha hb => (he c s).trans (updateBuffer_absent ha hb), fun s c a B hs ha hb => ?_⟩
  rw [he, updateBuffer_present ha hb]
  exact accumulate_of_sound hs ha B

/-- A command that is `updateSlice`, with UPDS's row, obeys its rule. -/
theorem updateSliceRule_of_exec_eq {W : Width} {p m : BitVec 32} {i : BitVec 8 → Instr}
    (hsel : Selects p m fun h => i (h.extractLsb' 16 8)) (he : ∀ c s, exec (i c) s = updateSlice W c s) :
    UpdateSliceRule (viewOf W) p m i := by
  refine ⟨hsel, fun s c hc => (he c s).trans (withAcc_unconfigured hc),
    fun s c a ha hb => (he c s).trans (updateSlice_absent ha hb),
    fun s c a B ha hb hout => (he c s).trans (updateSlice_out_of_range ha hb hout),
    fun s c a B X hs ha hb hin hlen hX => ?_⟩
  rw [he, updateSlice_in_range ha hb hin, ← eq_slice hlen hX]
  exact accumulate_of_sound hs ha X

/-- Settles O22: UPD's row, its two faults, and on a sound unit the fold of the buffer with the built table. -/
theorem updAccumulatesBuffer : Obligations.UpdAccumulatesBuffer := by
  rw [Obligations.UpdAccumulatesBuffer, view32_eq_viewOf, view64_eq_viewOf]
  exact ⟨updateBufferRule_of_exec_eq (selects_selectRow (w := false) (o := .upd) (by decide) (by decide) (by decide))
      fun _ _ => rfl,
    updateBufferRule_of_exec_eq (selects_selectRow (w := true) (o := .upd) (by decide) (by decide) (by decide))
      fun _ _ => rfl⟩

/-- Settles O23: UPDS's row, its three faults, and on a sound unit the fold of the slice with the built table. -/
theorem updsAccumulatesSlice : Obligations.UpdsAccumulatesSlice := by
  rw [Obligations.UpdsAccumulatesSlice, view32_eq_viewOf, view64_eq_viewOf]
  exact ⟨updateSliceRule_of_exec_eq (selects_selectRow (w := false) (o := .upds) (by decide) (by decide) (by decide))
      fun _ _ => rfl,
    updateSliceRule_of_exec_eq (selects_selectRow (w := true) (o := .upds) (by decide) (by decide) (by decide))
      fun _ _ => rfl⟩

/-! Finalization. -/

/-- Finalizing takes the mask off again (45 R146). -/
theorem fin_xorOut {w : Nat} (K : UnitConsts w) (v : BitVec w) : fin K v ^^^ K.xorOut = v := by
  rw [fin, BitVec.xor_assoc, BitVec.xor_self, BitVec.xor_zero]

theorem toNat_eq_foldl_be_w32 (v : BitVec 32) : v.toNat = (be v).foldl (fun n b => n * 256 + b.toNat) 0 := by
  have hv : v.toNat < 2 ^ 32 := v.isLt
  simp only [be_w32, List.foldl_cons, List.foldl_nil, BitVec.extractLsb'_toNat, Nat.shiftRight_eq_div_pow,
    Nat.reducePow] at *
  omega

theorem toNat_eq_foldl_be_w64 (v : BitVec 64) : v.toNat = (be v).foldl (fun n b => n * 256 + b.toNat) 0 := by
  have hv : v.toNat < 2 ^ 64 := v.isLt
  simp only [be_w64, List.foldl_cons, List.foldl_nil, BitVec.extractLsb'_toNat, Nat.shiftRight_eq_div_pow,
    Nat.reducePow] at *
  omega

/-- A value is the number of its bytes in base 256, most significant first. -/
theorem toNat_eq_foldl_be (W : Width) (v : BitVec W.bits) :
    v.toNat = (be v).foldl (fun n b => n * 256 + b.toNat) 0 := by
  cases W with
  | w32 => exact toNat_eq_foldl_be_w32 v
  | w64 => exact toNat_eq_foldl_be_w64 v

theorem be_injective (W : Width) {v v' : BitVec W.bits} (h : be v = be v') : v = v' := by
  apply BitVec.eq_of_toNat_eq
  rw [toNat_eq_foldl_be, toNat_eq_foldl_be, h]

/-- A command that reads its context leaves everything but the responses. -/
theorem eq_of_readAcc {W : Width} {c : BitVec 8} {s t : State} {r : Acc W.bits → Response}
    (h : (withAcc W c s fun a => .next (s.respond (r a))) = .next t) : t = { s with out := t.out } := by
  have hrespond : ∃ q, (withAcc W c s fun a => .next (s.respond (r a))) = .next (s.respond q) :=
    withAcc_induction (Q := fun A => ∃ q, A = .next (s.respond q)) (fun f => ⟨.fault f, rfl⟩) fun a _ => ⟨r a, rfl⟩
  obtain ⟨q, e⟩ := hrespond
  obtain rfl := Host.Outcome.next.inj (e.symm.trans h)
  rfl

theorem finalValue_configured {W : Width} {c : BitVec 8} {s : State} {a : Acc W.bits}
    (ha : (s.unit W).bank[c.toNat]? = some (some a)) :
    finalValue W c s = .next (answered s (.ok (.value W (fin (Config.consts W) a.cur)))) :=
  withAcc_configured ha

theorem digestBytes_configured {W : Width} {c : BitVec 8} {s : State} {a : Acc W.bits}
    (ha : (s.unit W).bank[c.toNat]? = some (some a)) :
    digestBytes W c s = .next (answered s (.ok (.digest (be (fin (Config.consts W) a.cur))))) :=
  withAcc_configured ha

/-- Settles O34: the mask cancels itself; the digest is the value in base 256; the six commands are one reading of a
context. -/
theorem finalizationLaws : Obligations.FinalizationLaws := by
  refine ⟨fun W v => fin_xorOut _ v, fun W _ _ => be_injective W, toNat_eq_foldl_be, ?_,
    fun c s a ha => ⟨_, finalValue_configured (W := .w32) ha, digestBytes_configured (W := .w32) ha⟩,
    fun c s a ha => ⟨_, finalValue_configured (W := .w64) ha, digestBytes_configured (W := .w64) ha⟩⟩
  rintro i c s t (rfl | rfl | rfl | rfl | rfl | rfl) h
  all_goals exact eq_of_readAcc h

/-- Settles O35: the two commands read the same context, and finalization at 64 bits is the identity. -/
theorem valueAndFinalAgreeAtSixtyFour : Obligations.ValueAndFinalAgreeAtSixtyFour := by
  intro s c
  have hfin : ∀ a : Acc 64, fin (Config.consts .w64) a.cur = a.cur := fun a => fin_consts64 a.cur
  change readValue .w64 c s = finalValue .w64 c s
  simp only [readValue, finalValue, hfin]

/-- Settles O36: S1 to S3 are evaluated. -/
theorem canonicalVectors : Obligations.CanonicalVectors := by
  unfold Obligations.CanonicalVectors
  decide +kernel

/-- Settles O41: the codes are constants, one for each cause. -/
theorem responseCodes : Obligations.ResponseCodes :=
  ⟨fun _ => ⟨rfl, rfl⟩, ⟨rfl, rfl⟩, ⟨rfl, rfl⟩, ⟨rfl, rfl⟩, ⟨rfl, rfl⟩, ⟨rfl, rfl⟩, ⟨rfl, rfl⟩, ⟨rfl, rfl⟩⟩

end Sys2Proof.Machine
end

section
/-! PROOFS, family other: sequences of commands. The step of an assembler form (30_encoding R71), and with it an offset
or a length wider than LENW bits (93 U12); a run of updates of one context, which leaves one fold (42 R108; 43 R123);
the round trip and the chaining of the compute commands (44 R137). -/

open Sys2Proof.Claims

namespace Sys2Proof.Machine

/-! The step of a form. -/

/-- What is pending is no part of a unit. -/
theorem pending_unit (s : State) (p : List Event) (W : Width) : ({ s with pending := p } : State).unit W = s.unit W := by
  cases W <;> rfl

section
variable {i : Instr} {W : Width} {c : BitVec 8} {s : State} {f : Form} {rest : List Event}

/-- A command on a context of the bank is well formed for the block. -/
theorem wf_of_context (hW : i.unit = W) (hc : i.context = some c) (hlt : c.toNat < (s.unit W).bank.length) :
    i.wf s.u32.bank.length s.u64.bank.length = true := by
  subst hW
  by_contra hwf
  obtain ⟨c', hc', hle⟩ := Instr.wf_eq_false_iff.mp (Bool.eq_false_of_not_eq_true hwf)
  obtain rfl : c = c' := Option.some.inj (hc.symm.trans hc')
  have hbank : ofUnit i.unit s.u32.bank.length s.u64.bank.length = (s.unit i.unit).bank.length := by
    cases i.unit <;> rfl
  omega

theorem wf_of_no_context (hc : i.context = none) (n32 n64 : Nat) : i.wf n32 n64 = true := by
  simp [Instr.wf, hc]

/-- A form that is well formed for the block, with a buffer the block can be given, is executed. -/
theorem step_of_form (hp : s.pending = .issue f.command :: rest)
    (hwf : f.instr.wf s.u32.bank.length s.u64.bank.length = true)
    (hb : ∀ B, f.ports.buf = some B → B.length < 2 ^ s.lenw) : step s = exec f.instr (s.take f.command rest) :=
  step_of_fits hp (decode_encode hwf) fun _ => hb

end

/-- The form is a command on context `c` of the unit `W` with the meaning `run`. -/
structure Runs (W : Width) (c : BitVec 8) (f : Form) (run : State → Answer) : Prop where
  unit : f.instr.unit = W
  context : f.instr.context = some c
  exec_eq : ∀ s, exec f.instr s = run s

section
variable {W : Width} {c : BitVec 8}

theorem runs_new (P S : Option (BitVec W.bits)) : Runs W c (.new W c P S) (newAcc W c P.isSome S.isSome) := by
  constructor <;> intros <;> cases W <;> rfl

theorem runs_updb (b : Byte) : Runs W c (.updb W c b) (updateByte W c b) := by
  constructor <;> intros <;> cases W <;> rfl

theorem runs_upd (buf : Option (List Byte)) : Runs W c (.upd W c buf) (updateBuffer W c) := by
  constructor <;> intros <;> cases W <;> rfl

theorem runs_upds (buf : Option (List Byte)) (o n : Nat) : Runs W c (.upds W c buf o n) (updateSlice W c) := by
  constructor <;> intros <;> cases W <;> rfl

theorem runs_final : Runs W c (.final W c) (finalValue W c) := by
  constructor <;> intros <;> cases W <;> rfl

/-- The step of a form on a context of the bank, with a buffer the block can be given. -/
theorem step_of_runs {f : Form} {run : State → Answer} {s : State} {rest : List Event} (hf : Runs W c f run)
    (hlt : c.toNat < (s.unit W).bank.length) (hb : ∀ B, f.ports.buf = some B → B.length < 2 ^ s.lenw)
    (hp : s.pending = .issue f.command :: rest) : step s = run (s.take f.command rest) := by
  rw [step_of_form hp (wf_of_context hf.unit hf.context hlt) hb, hf.exec_eq]

end

/-- Settles O43: the buffer is shorter than `2^LENW`, so the sum is out of its range whatever the other summand. -/
theorem wideOffsetsAreOutOfRange : Obligations.WideOffsetsAreOutOfRange := by
  intro W s c a B o n rest hp ha hB hwide
  have hout : B.length < o + n := by omega
  rw [step_of_runs (runs_upds (some B) o n) (List.getElem?_eq_some_iff.mp ha).1 (fun B' hB' => Option.some.inj hB' ▸ hB) hp,
    updateSlice_out_of_range (by rwa [take_unit]) rfl hout]
  rfl

/-! Runs of updates. -/

section
variable {W : Width} {c : BitVec 8}

/-- The form is a command that accumulates the bytes `X` on context `c` of the unit `W`, if that is configured. -/
def Accumulates (W : Width) (c : BitVec 8) (f : Form) (X : List Byte) : Prop :=
  ∃ run, Runs W c f run ∧ ∀ s a, (s.unit W).bank[c.toNat]? = some (some a) → s.ports = f.ports →
    run s = accumulate W c a X s

theorem accumulates_updb (b : Byte) : Accumulates W c (.updb W c b) [b] :=
  ⟨_, runs_updb b, fun _ _ ha _ => withAcc_configured ha⟩

theorem accumulates_upd (B : List Byte) : Accumulates W c (.upd W c (some B)) B :=
  ⟨_, runs_upd (some B), fun _ _ ha hports => updateBuffer_present ha (congrArg Ports.buf hports)⟩

theorem accumulates_upds {B : List Byte} {o n : Nat} (h : o + n ≤ B.length) :
    Accumulates W c (.upds W c (some B) o n) (slice B o n) := by
  refine ⟨_, runs_upds (some B) o n, fun s a ha hports => ?_⟩
  have hoff : s.ports.off = o := congrArg Ports.off hports
  have hlen : s.ports.len = n := congrArg Ports.len hports
  rw [updateSlice_in_range ha (congrArg Ports.buf hports) (by rwa [hoff, hlen]), hoff, hlen]

@[simp] theorem wroteAcc_lenw (a : Acc W.bits) (s : State) : (wroteAcc W c a s).lenw = s.lenw := setUnit_lenw s W _
@[simp] theorem wroteAcc_pending (a : Acc W.bits) (s : State) : (wroteAcc W c a s).pending = s.pending :=
  setUnit_pending s W _
@[simp] theorem wroteAcc_out (a : Acc W.bits) (s : State) : (wroteAcc W c a s).out = .ok .nothing :: s.out :=
  congrArg _ (setUnit_out s W _)

variable {s : State} {a : Acc W.bits} {rest : List Event}

/-- The context written holds what was written. -/
theorem wroteAcc_holds (a : Acc W.bits) (h : c.toNat < (s.unit W).bank.length) :
    ((wroteAcc W c a s).unit W).bank[c.toNat]? = some (some a) := by
  rw [wroteAcc_bank, List.getElem?_set_self h]

/-- The step of an update of a configured context on a sound unit. -/
theorem step_of_accumulates {f : Form} {X : List Byte} (hf : Accumulates W c f X)
    (hs : (s.unit W).Sound (Config.consts W)) (ha : (s.unit W).bank[c.toNat]? = some (some a))
    (hb : ∀ B, f.ports.buf = some B → B.length < 2 ^ s.lenw) (hp : s.pending = .issue f.command :: rest) :
    step s = .next (wroteAcc W c { a with cur := fold (build a.poly) a.cur X } (s.take f.command rest)) := by
  obtain ⟨run, hrun, haccumulate⟩ := hf
  rw [step_of_runs hrun (List.getElem?_eq_some_iff.mp ha).1 hb hp, haccumulate _ a (by rwa [take_unit]) rfl,
    accumulate_of_sound (by rwa [take_unit]) (by rwa [take_unit])]

/-- A run of updates leaves one fold over the bytes of all of them, and the rest of the bank as it was. -/
theorem run_of_accumulates {α : Type} (f : α → Form) (X : α → List Byte) (l : List α)
    (hf : ∀ x ∈ l, Accumulates W c (f x) (X x)) (hs : (s.unit W).Sound (Config.consts W))
    (ha : (s.unit W).bank[c.toNat]? = some (some a))
    (hb : ∀ x ∈ l, ∀ B, (f x).ports.buf = some B → B.length < 2 ^ s.lenw)
    (hp : s.pending = l.map fun x => .issue (f x).command) :
    ∃ t : State, core.run l.length s = .next t ∧
      (t.unit W).bank = (s.unit W).bank.set c.toNat (some { a with cur := fold (build a.poly) a.cur (l.flatMap X) }) := by
  induction l generalizing s a with
  | nil => exact ⟨s, run_zero, (setCtx_bank_of_holds ha).symm⟩
  | cons x l ih =>
    have hx : Accumulates W c (f x) (X x) := hf x List.mem_cons_self
    have hlt : c.toNat < (s.unit W).bank.length := (List.getElem?_eq_some_iff.mp ha).1
    have hstep := step_of_accumulates hx hs ha (hb x List.mem_cons_self) hp
    obtain ⟨t, hrun, hbank⟩ := ih (fun y hy => hf y (List.mem_cons_of_mem x hy)) (step_keeps_unit_sound hs hstep)
      (wroteAcc_holds _ (by rwa [take_unit])) (fun y hy => by simpa using hb y (List.mem_cons_of_mem x hy)) (by simp)
    refine ⟨t, by rw [List.length_cons, run_succ hstep, hrun], ?_⟩
    rw [hbank, wroteAcc_bank, take_unit, List.set_set, List.flatMap_cons, fold_append]

/-- The same run, issued to a block with anything pending. -/
theorem run_of_accumulates_pending {α : Type} (f : α → Form) (X : α → List Byte) (l : List α)
    (hf : ∀ x ∈ l, Accumulates W c (f x) (X x)) (hs : (s.unit W).Sound (Config.consts W))
    (ha : (s.unit W).bank[c.toNat]? = some (some a))
    (hb : ∀ x ∈ l, ∀ B, (f x).ports.buf = some B → B.length < 2 ^ s.lenw) :
    ∃ t : State, core.run l.length { s with pending := l.map fun x => .issue (f x).command } = .next t ∧
      (t.unit W).bank = (s.unit W).bank.set c.toNat (some { a with cur := fold (build a.poly) a.cur (l.flatMap X) }) := by
  rw [← pending_unit s (l.map fun x => .issue (f x).command) W] at hs ha ⊢
  exact run_of_accumulates f X l hf hs ha hb rfl

/-- A run of one update. -/
theorem run_one_of_accumulates {f : Form} {X : List Byte} (hf : Accumulates W c f X)
    (hs : (s.unit W).Sound (Config.consts W)) (ha : (s.unit W).bank[c.toNat]? = some (some a))
    (hb : ∀ B, f.ports.buf = some B → B.length < 2 ^ s.lenw) :
    ∃ t : State, core.run 1 { s with pending := [.issue f.command] } = .next t ∧
      (t.unit W).bank = (s.unit W).bank.set c.toNat (some { a with cur := fold (build a.poly) a.cur X }) := by
  simpa using run_of_accumulates_pending (fun _ : Unit => f) (fun _ => X) [()] (fun _ _ => hf) hs ha fun _ _ => hb

end

/-- The splitting law at either width. -/
theorem splittingFor (W : Width) : SplittingFor (viewOf W) := by
  intro s c a Bs hs ha hB hp
  obtain ⟨t, hrun, hbank⟩ := run_of_accumulates (fun B => Form.upd W c (some B)) id Bs (fun B _ => accumulates_upd B) hs ha
    (fun B hmem B' hB' => Option.some.inj hB' ▸ hB B hmem) hp
  rw [List.flatMap_id] at hbank
  exact ⟨t, hrun, hbank⟩

/-- The update forms agree at either width. -/
theorem updateFormsFor (W : Width) : UpdateFormsFor (viewOf W) := by
  intro s c a B X o n hs ha hB hin hX
  obtain rfl : X = slice B o n := hX
  have hfits : ∀ B', some B = some B' → B'.length < 2 ^ s.lenw := fun B' hB' => Option.some.inj hB' ▸ hB
  have hslice : ∀ B', some (slice B o n) = some B' → B'.length < 2 ^ s.lenw := by
    rintro B' ⟨⟩
    exact (List.length_take_le' n (B.drop o)).trans_lt ((List.length_drop ▸ Nat.sub_le _ _).trans_lt hB)
  have hwhole : slice B 0 B.length = B := List.take_length
  obtain ⟨t1, hrun1, hbank1⟩ := run_one_of_accumulates (accumulates_upd B) hs ha hfits
  obtain ⟨t2, hrun2, hbank2⟩ := run_one_of_accumulates (accumulates_upds (Nat.zero_add B.length).le) hs ha hfits
  obtain ⟨t3, hrun3, hbank3⟩ := run_of_accumulates_pending (fun b => Form.updb W c b) (fun b => [b]) B
    (fun b _ => accumulates_updb b) hs ha (fun _ _ _ hB' => by cases hB')
  obtain ⟨t4, hrun4, hbank4⟩ := run_one_of_accumulates (accumulates_upds hin) hs ha hfits
  obtain ⟨t5, hrun5, hbank5⟩ := run_one_of_accumulates (accumulates_upd (slice B o n)) hs ha hslice
  rw [hwhole] at hbank2
  rw [List.flatMap_singleton'] at hbank3
  exact ⟨t1, t2, t3, t4, t5, hrun1, hrun2, hrun3, hrun4, hrun5, hbank1.trans hbank2.symm, hbank1.trans hbank3.symm,
    hbank4.trans hbank5.symm⟩

/-- Settles O52: UPD accumulates its buffer, so a run of them accumulates the concatenation. -/
theorem splittingLaw : Obligations.SplittingLaw := by
  rw [Obligations.SplittingLaw, view32_eq_viewOf, view64_eq_viewOf]
  exact ⟨splittingFor .w32, splittingFor .w64⟩

/-- Settles O53: each of the five runs is a run of updates, over the same bytes where the banks are to agree. -/
theorem updateFormsAgree : Obligations.UpdateFormsAgree := by
  rw [Obligations.UpdateFormsAgree, view32_eq_viewOf, view64_eq_viewOf]
  exact ⟨updateFormsFor .w32, updateFormsFor .w64⟩

/-! The compute commands. -/

section
variable {W : Width} {s : State}

/-- A value of the unit comes through a port unchanged (30_encoding R62; log 4). -/
theorem setWidth_onPort (v : BitVec W.bits) : (onPort v).setWidth W.bits = v := by
  have hle : W.bits ≤ 64 := by cases W <;> decide
  rw [onPort, BitVec.setWidth_setWidth_of_le v hle, BitVec.setWidth_eq]

/-- The polynomial of a NEW form (30_encoding R63, R71). -/
theorem operandPoly_of_new {c : BitVec 8} {P S : Option (BitVec W.bits)} (h : s.ports = (Form.new W c P S).ports) :
    operandPoly W P.isSome s = P.getD (Config.consts W).canonPoly := by
  cases P with
  | none => rfl
  | some v => exact (congrArg (·.poly.setWidth W.bits) h).trans (setWidth_onPort v)

/-- The seed of a NEW form (30_encoding R63, R71). -/
theorem operandSeed_of_new {c : BitVec 8} {P S : Option (BitVec W.bits)} (h : s.ports = (Form.new W c P S).ports) :
    operandSeed W S.isSome s = S.getD (Config.consts W).defaultSeed := by
  cases S with
  | none => rfl
  | some v => exact (congrArg (·.seed.setWidth W.bits) h).trans (setWidth_onPort v)

/-- The form is a command that computes over `B` with the polynomial `P` and the seed `S`. -/
structure Computes (W : Width) (f : Form) (P S : BitVec W.bits) (B : List Byte) : Prop where
  context : f.instr.context = none
  buf : f.ports.buf = some B
  exec_eq : ∀ s, s.ports = f.ports → exec f.instr s = computeOn W P S s

variable (W) in
theorem computes_comp1 (B : List Byte) :
    Computes W (.comp1 W (some B)) (Config.consts W).canonPoly (Config.consts W).defaultSeed B where
  context := by cases W <;> rfl
  buf := rfl
  exec_eq s _ := by cases W <;> rfl

theorem computes_comp2 (S : BitVec W.bits) (B : List Byte) :
    Computes W (.comp2 W S (some B)) (Config.consts W).canonPoly S B where
  context := by cases W <;> rfl
  buf := rfl
  exec_eq s hports := by
    have hexec : exec (Form.comp2 W S (some B)).instr s = comp2 W s := by cases W <;> rfl
    have hS : portSeed W s = S := (congrArg (·.seed.setWidth W.bits) hports).trans (setWidth_onPort S)
    rw [hexec, comp2, hS]

theorem computes_comp3 (P S : BitVec W.bits) (B : List Byte) : Computes W (.comp3 W P S (some B)) P S B where
  context := by cases W <;> rfl
  buf := rfl
  exec_eq s hports := by
    have hexec : exec (Form.comp3 W P S (some B)).instr s = comp3 W s := by cases W <;> rfl
    have hP : portPoly W s = P := (congrArg (·.poly.setWidth W.bits) hports).trans (setWidth_onPort P)
    have hS : portSeed W s = S := (congrArg (·.seed.setWidth W.bits) hports).trans (setWidth_onPort S)
    rw [hexec, comp3, hP, hS]

/-- The step of a compute command on a sound unit answers `compute` (44 R130). -/
theorem step_of_computes {f : Form} {P S : BitVec W.bits} {B : List Byte} {rest : List Event} (hf : Computes W f P S B)
    (hs : (s.unit W).Sound (Config.consts W)) (hb : B.length < 2 ^ s.lenw) (hp : s.pending = .issue f.command :: rest) :
    ∃ u : State, step s = .next u ∧ u.out = .ok (.value W (compute (Config.consts W) P S B)) :: s.out := by
  have hfits : ∀ B', f.ports.buf = some B' → B'.length < 2 ^ s.lenw := fun B' hB' =>
    Option.some.inj (hf.buf.symm.trans hB') ▸ hb
  have hstep := step_of_form hp (wf_of_no_context hf.context _ _) hfits
  rw [hf.exec_eq _ rfl, computeOn_of_sound (by rwa [take_unit]) hf.buf] at hstep
  exact ⟨_, hstep, by simp [answered, compute, fin]⟩

variable {c : BitVec 8} {rest : List Event}

/-- The step of NEW on a sound unit (42 R102, 43 R117). -/
theorem step_of_new {P S : Option (BitVec W.bits)} (hs : (s.unit W).Sound (Config.consts W))
    (hlt : c.toNat < (s.unit W).bank.length) (hp : s.pending = .issue (Form.new W c P S).command :: rest) :
    step s = .next (wroteAcc W c
      (freshAcc (Config.consts W) (P.getD (Config.consts W).canonPoly) (S.getD (Config.consts W).defaultSeed))
      (s.take (Form.new W c P S).command rest)) := by
  rw [step_of_runs (runs_new P S) hlt (fun _ hB => by cases hB) hp]
  exact newAcc_of_sound (by rwa [take_unit]) (by rwa [take_unit]) (operandPoly_of_new (c := c) rfl)
    (operandSeed_of_new (c := c) rfl)

/-- The step of FINAL on a configured context (45 R142, R144). -/
theorem step_of_final {a : Acc W.bits} (ha : (s.unit W).bank[c.toNat]? = some (some a))
    (hp : s.pending = .issue (Form.final W c).command :: rest) :
    step s = .next (answered (s.take (Form.final W c).command rest) (.ok (.value W (fin (Config.consts W) a.cur)))) := by
  rw [step_of_runs runs_final (List.getElem?_eq_some_iff.mp ha).1 (fun _ hB => by cases hB) hp,
    finalValue_configured (by rwa [take_unit])]

/-- NEW, UPD, FINAL on a sound unit answer OK, OK and `compute`. -/
theorem run_new_upd_final {P S : Option (BitVec W.bits)} {B : List Byte} (hs : (s.unit W).Sound (Config.consts W))
    (hlt : c.toNat < (s.unit W).bank.length) (hb : B.length < 2 ^ s.lenw)
    (hp : s.pending = [.issue (Form.new W c P S).command, .issue (Form.upd W c (some B)).command,
      .issue (Form.final W c).command]) :
    ∃ t : State, core.run 3 s = .next t ∧
      t.out = .ok (.value W (compute (Config.consts W) (P.getD (Config.consts W).canonPoly)
        (S.getD (Config.consts W).defaultSeed) B)) :: .ok .nothing :: .ok .nothing :: s.out := by
  have hnew := step_of_new hs hlt hp
  have hupd := step_of_accumulates (accumulates_upd B) (step_keeps_unit_sound hs hnew)
    (wroteAcc_holds _ (by rwa [take_unit])) (fun B' hB' => by simpa using Option.some.inj hB' ▸ hb) (wroteAcc_pending _ _)
  refine ⟨_, (run_succ hnew).trans ((run_succ hupd).trans ((run_succ
    (step_of_final (wroteAcc_holds _ (by simpa using hlt)) (wroteAcc_pending _ _))).trans run_zero)), ?_⟩
  simp [answered, compute, freshAcc]

end

/-- The round trip of a compute command with the polynomial and the seed that NEW takes from `P` and `S`. -/
theorem roundTripFor {W : Width} {comp : List Byte → Form} {P S : Option (BitVec W.bits)}
    (hcomp : ∀ B, Computes W (comp B) (P.getD (Config.consts W).canonPoly) (S.getD (Config.consts W).defaultSeed) B) :
    RoundTripFor (viewOf W) comp P S := by
  intro s c B hs hlt hb
  obtain ⟨t, hrun, hout⟩ := run_new_upd_final (P := P) (S := S) (s := { s with pending := [_, _, _] })
    (by rw [pending_unit]; exact hs) (by rw [pending_unit]; exact hlt) hb rfl
  obtain ⟨u, hstep, hout'⟩ := step_of_computes (s := { s with pending := [_] }) (hcomp B)
    (by rw [pending_unit]; exact hs) hb rfl
  exact ⟨t, u, _, hrun, (run_succ hstep).trans run_zero, hout, hout'⟩

/-- Settles O54: each compute command is one of `compute`, and so is the run. -/
theorem computeRoundTrip : Obligations.ComputeRoundTrip := by
  rw [Obligations.ComputeRoundTrip, view32_eq_viewOf, view64_eq_viewOf]
  exact ⟨⟨roundTripFor (computes_comp1 .w32), fun S => roundTripFor (computes_comp2 (W := .w32) S),
      fun P S => roundTripFor (computes_comp3 (W := .w32) P S)⟩,
    roundTripFor (computes_comp1 .w64), fun S => roundTripFor (computes_comp2 (W := .w64) S),
      fun P S => roundTripFor (computes_comp3 (W := .w64) P S)⟩

/-- Settles O55: the mask cancels, and a fold over a concatenation goes on from where it was. -/
theorem computeChaining : Obligations.ComputeChaining := by
  intro W P S B1 B2
  rw [compute, compute, compute, fin_xorOut, fold_append]

end Sys2Proof.Machine
end
